-- ==== Sys2Proof/Word.lean ====
section
/-! DEFINITION. The word types of DML-IVSE (00_scope.md R8): bytes, 16-bit header words, 32-bit registers,
the 16-byte block and the 32-byte expanded key. -/

namespace Sys2Proof

/-- An 8-bit value. -/
abbrev Byte := BitVec 8

/-- A 16-bit value: a header word, a `game_version`, a half of a vector. -/
abbrev Half := BitVec 16

/-- A 32-bit value: a register, a command word, a vector. -/
abbrev Word := BitVec 32

/-- A 16-byte block, the working IV of R170. -/
abbrev Block := Vector Byte 16

/-- The 32-byte expanded key `EK` (R44, R121; 90_conflicts.md C1: 32 bytes, not 16). -/
abbrev ExpandedKey := Vector Byte 32

end Sys2Proof
end

