-- ==== Sys2Proof/Config.lean ====
section
/-! DEFINITION. The implementation parameters of 00_scope.md R5, and the fixed protocol constants of R6 and R7. -/

namespace Sys2Proof

/-- `P_K3_K0` (R5, R147): which key byte 0 the shuffle's byte 3 update reads. -/
inductive KeyByte0 where
  | pre   -- the byte before this step's updates, the source's words
  | post  -- the byte already updated in this step
deriving DecidableEq, Repr

/-- The parameters a model takes as arguments (R5). Every meaning takes one of these, by default `Config.params`. -/
structure Params where
  /-- `P_BT`, the keyed block transform: a pure total function (D13). -/
  bt : ExpandedKey → Block → Block
  /-- `P_SHUFFLE_TABLE`, written `T` (R143). -/
  table : Byte → Byte
  /-- `P_SHUFFLE_SEED` (R144). -/
  seed : Word
  /-- `P_K3_K0` (R147). -/
  k3k0 : KeyByte0
  /-- `P_HAS_SHANDA` (D22). -/
  hasShanda : Bool
  /-- `P_HAS_ANNOUNCE` (D22). -/
  hasAnnounce : Bool
  /-- `P_BUF_BYTES` (D5). -/
  bufBytes : Nat

/-- The range R5 gives `P_BUF_BYTES`: a power of two from 2^12 to 2^24. -/
def Params.valid (P : Params) : Prop :=
  ∃ k, 12 ≤ k ∧ k ≤ 24 ∧ P.bufBytes = 2 ^ k

/-- `P_BT` has no value in any source (R4, R5, 93_implementation_defined.md U1): a free function, log 3. -/
opaque Config.blockTransform : ExpandedKey → Block → Block

/-- `P_SHUFFLE_TABLE` has no value in any source (R143, U2): a free function, log 3. -/
opaque Config.shuffleTable : Byte → Byte

/-- `P_SHUFFLE_SEED` has no value in any source (R144, U3): a free value, log 3. -/
opaque Config.shuffleSeed : Word

/-- The configuration of `exec` and `step`: the OPEN parameters of R5 free, the others at the default R5 shows
(DESIGN CHOICE, unsafe for another build, log 4). -/
def Config.params : Params where
  bt := Config.blockTransform
  table := Config.shuffleTable
  seed := Config.shuffleSeed
  k3k0 := .pre
  hasShanda := true
  hasAnnounce := true
  bufBytes := 131072

/-- `CHUNK_FIRST` (R5, R6). -/
def chunkFirst : Nat := 1456

/-- `CHUNK_NEXT` (R5, R6). -/
def chunkNext : Nat := 1460

/-- `SUBBLOCK` (R5). -/
def subBlock : Nat := 16

/-- `ANNOUNCE_MOD` (R5, R45). -/
def announceMod : Nat := 31

/-- `SHANDA_REPS` (R5, R200). -/
def shandaReps : Nat := 3

/-- `SHANDA_C_A` (R5, R201). -/
def shandaCA : Byte := 0x13

/-- `SHANDA_C_B` (R5, R202). -/
def shandaCB : Byte := 0x48

/-- `HDR_BYTES` (R5, R191). -/
def hdrBytes : Nat := 4

/-- `ID` (R23): 0x4956 above 0x0001, the only value the register has. -/
def idWord : Word := 0x49560001

end Sys2Proof
end

