-- ==== Sys2Proof/Syntax.lean ====
section
/-! DEFINITION. The commands (30_encoding.md R90, R97; one constructor per row of opcode_table.json), the fields of a
command word, and the names of the register file (10_state.md R22). -/

namespace Sys2Proof

/-- A cipher context, the `CTX` bit of a command (R92). Context 0 is by convention the send Cipher. -/
inductive CtxId where
  | ctx0
  | ctx1
deriving DecidableEq, Repr

/-- The `DIR` bit of a command, the flag `to_client` (R93, 90_conflicts.md C7): the flag decides, not a label. -/
inductive Dir where
  | tc0  -- to_client = false
  | tc1  -- to_client = true
deriving DecidableEq, Repr

/-- The twelve commands. A constructor carries only the bits its command reads: `CTX` where R97 says ctx, `DIR` where
it says dir. -/
inductive Instr where
  | nop
  | ctxInit (c : CtxId)
  | setVector (c : CtxId)
  | ivShuffle (c : CtxId)
  | hdrBuild (c : CtxId) (d : Dir)
  | pktLen
  | xform (c : CtxId)
  | encrypt (c : CtxId) (d : Dir)
  | decrypt (c : CtxId)
  | hsStrip
  | shandaEnc
  | shandaDec
deriving DecidableEq, Repr

/-- The fields of the one command format `CMD32` (R90). -/
structure Cmd32 where
  op : Byte
  ctx : Bool
  dir : Bool
  reserved : BitVec 22
deriving DecidableEq, Repr

/-- The registers of R22. A reserved offset has no constructor. -/
inductive Reg where
  | id
  | ctrl
  | status
  | cmd
  | src
  | dst
  | len
  | value
  | result
  | announce
  | keyLo
  | keyHi
  | version
  | ctxStatus (c : CtxId)
  | ctxCfg (c : CtxId)
  | ctxVersion (c : CtxId)
  | ctxVector (c : CtxId)
deriving DecidableEq, Repr

/-- The width of a host access. -/
inductive Width where
  | w8
  | w16
  | w32
  | w64
deriving DecidableEq, Repr

/-- One host bus access, at an offset of the block's window (R60). Data of a write narrower than 32 bits is in the
low bits of `data` (log 9). -/
inductive Access where
  | read (w : Width) (off : Nat)
  | write (w : Width) (off : Nat) (data : Word)
deriving DecidableEq, Repr

/-- What moves the machine: a host access, a step of the engine, or the platform's power-on reset (R72, R220, R250). -/
inductive Event where
  | bus (a : Access)
  | engine
  | powerOn
deriving DecidableEq, Repr

end Sys2Proof
end

