-- ==== Sys2Proof/Machine/State.lean ====
section
/-! DEFINITION. The machine's state as plain data (10_state.md R22 to R54), its faults and refusals, and the state
after a power-on reset (R53, R251). -/

namespace Sys2Proof.Machine

/-- The model faults of 60_exceptions.md R230, and one of the model's own. -/
inductive Fault where
  /-- `F_UNINIT` (R65, R230): a host `BUF` read, or a command that reads `BUF` (PKT_LEN, XFORM, ENCRYPT, DECRYPT,
  HS_STRIP, SHANDA_ENC, SHANDA_DEC), covers an uninitialised byte. Safe: a chip goes on with an unspecified byte. -/
  | uninit
  /-- `F_HAZARD` (R230, R259): a host `BUF` access while `BUSY` = 1. Safe: a chip goes on with an unspecified effect. -/
  | hazard
  /-- `F_BUS` (R230, R231): a host access R61 to R63 reject. Safe: a chip goes on with its state unchanged. -/
  | bus
  /-- A host access outside the window, which the block does not decode (R62). Safe: such an access never reaches the
  block (log 8). -/
  | outsideWindow
deriving DecidableEq, Repr

/-- Refusals. Every command has its meaning, so no arm of `exec` raises one. -/
inductive Refusal where
  /-- Raised by an arm of `exec` whose command has no meaning yet. None has. Safe. -/
  | notModelled (mnemonic : String)
deriving DecidableEq, Repr

/-- The completion codes (R221), the legal values of `STATUS.CODE` (R30). -/
inductive Code where
  | ok
  | notReady
  | illegalOp
  | reservedBits
  | lenRange
  | short
  | range
deriving DecidableEq, Repr

/-- `BUF`: offsets strictly rising, an unlisted offset uninitialised (R54, R65). -/
abbrev Memory := List Host.Cell

/-- The canonical form of `BUF`: offsets strictly rising. No listed byte reads as an unlisted one does, since an
unlisted one reads as nothing. -/
abbrev Memory.wf (m : Memory) : Prop :=
  List.Pairwise (fun a b => a.1 < b.1) m

/-- A cipher context (R44). -/
structure Context where
  /-- `KEYED`. -/
  keyed : Bool
  /-- `EK`, readable by nothing (R49). -/
  ek : ExpandedKey
  /-- `VERSION`, the `game_version` (R42). -/
  version : Half
  /-- `HANDSHAKEN` (R47). -/
  handshaken : Bool
  /-- `VECTOR` (R43, R46). -/
  vector : Word
  /-- `SHANDA_EN` (R41). -/
  shandaEn : Bool
  /-- `ANNOUNCE_EN` (R41). -/
  announceEn : Bool
deriving DecidableEq, Repr

/-- The block's state (R54), and the model's own `inputs` and `readData`. -/
structure State where
  /-- `CTRL.IRQ_EN` (R24). -/
  irqEn : Bool
  /-- `STATUS.BUSY`, which is the pending-command flag (R26, R52). -/
  busy : Bool
  /-- `STATUS.DONE` (R27). -/
  done : Bool
  /-- `STATUS.ANN_VALID` (R28). -/
  annValid : Bool
  /-- `STATUS.WDROP` (R29). -/
  wdrop : Bool
  /-- `STATUS.CODE` (R30). -/
  code : Code
  /-- `CMD`, the last accepted word (R31). -/
  cmd : Word
  /-- `SRC` (R32). -/
  src : Word
  /-- `DST` (R33). -/
  dst : Word
  /-- `LEN` (R34). -/
  len : Word
  /-- `VALUE` (R35). -/
  value : Word
  /-- `RESULT` (R36). -/
  result : Word
  /-- `ANNOUNCE`, bits [15:0] (R37). -/
  announce : Half
  /-- `KEY_LO`, staged (R38, R50). -/
  keyLo : Word
  /-- `KEY_HI`, staged (R38, R50). -/
  keyHi : Word
  /-- `VERSION`, bits [15:0] (R39). -/
  version : Half
  /-- Context 0 (R44). -/
  ctx0 : Context
  /-- Context 1 (R44). -/
  ctx1 : Context
  /-- `BUF` (R54). -/
  mem : Memory
  /-- The model's own: the events still to come, first first (log 1). -/
  inputs : List Event
  /-- The model's own: the data the last host read returned (log 2). -/
  readData : Option Word
deriving DecidableEq, Repr

/-- A context after either reset (R53). -/
def Context.reset : Context where
  keyed := false
  ek := #v[0, 0, 0, 0, 0, 0, 0, 0, 0, 0, 0, 0, 0, 0, 0, 0, 0, 0, 0, 0, 0, 0, 0, 0, 0, 0, 0, 0, 0, 0, 0, 0]
  version := 0
  handshaken := false
  vector := 0
  shandaEn := false
  announceEn := false

/-- The state after a power-on reset (R53, R251): every field as the spec says, every `BUF` byte uninitialised.
`inputs` and `readData` are the model's own (DESIGN CHOICE, log 1 and log 2). -/
def State.reset : State where
  irqEn := false
  busy := false
  done := false
  annValid := false
  wdrop := false
  code := .ok
  cmd := 0
  src := 0
  dst := 0
  len := 0
  value := 0
  result := 0
  announce := 0
  keyLo := 0
  keyHi := 0
  version := 0
  ctx0 := Context.reset
  ctx1 := Context.reset
  mem := []
  inputs := []
  readData := none

end Sys2Proof.Machine
end

