-- ==== Sys2Proof/Machine/Bits.lean ====
section
/-! DEFINITION. Byte order, byte views and rotates (00_scope.md R8 to R11, 10_state.md R45). -/

namespace Sys2Proof.Machine

/-- `byte(v, j)` = v[8j+7:8j] (R11). -/
def byteOf (v : Word) (j : Nat) : Byte :=
  v.extractLsb' (8 * j) 8

/-- A 32-bit value from its four bytes, least significant first (R11, R145). -/
def wordOf (b0 b1 b2 b3 : Byte) : Word :=
  b3 ++ (b2 ++ (b1 ++ b0))

/-- `bytes16(v)`, little-endian (R11). -/
def bytes16 (v : Half) : List Byte :=
  [v.extractLsb' 0 8, v.extractLsb' 8 8]

/-- `bytes32(v)`, little-endian (R11, R45). -/
def bytes32 (v : Word) : List Byte :=
  [byteOf v 0, byteOf v 1, byteOf v 2, byteOf v 3]

/-- `s[i]` of a byte sequence (R8), and 0 past its end: a narrow `BUF` read widened to the bus word (log 9) is the only
caller that indexes there. -/
def byteAt (s : List Byte) (i : Nat) : Byte :=
  s[i]?.getD 0

/-- `le16(s, i)`, little-endian (R11). -/
def le16 (s : List Byte) (i : Nat) : Half :=
  byteAt s (i + 1) ++ byteAt s i

/-- `le32(s, i)`, little-endian (R11). -/
def le32 (s : List Byte) (i : Nat) : Word :=
  wordOf (byteAt s i) (byteAt s (i + 1)) (byteAt s (i + 2)) (byteAt s (i + 3))

/-- `rol8(x, n)`: the amount is taken mod 8 (R10). -/
def rol8 (x : Byte) (n : Nat) : Byte :=
  x.rotateLeft n

/-- `ror8(x, n)`: the amount is taken mod 8 (R10). -/
def ror8 (x : Byte) (n : Nat) : Byte :=
  x.rotateRight n

/-- `rol32(x, n)` (R10). -/
def rol32 (x : Word) (n : Nat) : Word :=
  x.rotateLeft n

/-- `hi(v)`, the upper 16 bits (R45). -/
def hiHalf (v : Word) : Half :=
  v.extractLsb' 16 16

/-- `lo(v)`, the lower 16 bits (R45). -/
def loHalf (v : Word) : Half :=
  v.extractLsb' 0 16

/-- `must_announce(v)`: `lo(v) mod 31 = 0` (R45). -/
def mustAnnounce (v : Word) : Bool :=
  decide ((loHalf v).toNat % announceMod = 0)

end Sys2Proof.Machine
end

