-- ==== Sys2Proof/Machine/Ops.lean ====
section
/-! DEFINITION. The named operations over `BUF`, the contexts and the command life cycle (20_memory.md R63 to R70,
10_state.md R44, 60_exceptions.md R220 to R223). The block takes no exception (R224): a command ENDS, by `finish`,
and there is nothing to return from. -/

namespace Sys2Proof.Machine

/-! ## `BUF` -/

/-- The byte at an offset of `BUF`; none where it is uninitialised (R54, R65). -/
def Memory.read : Memory → Nat → Option Byte
  | [], _ => none
  | (k, v) :: m, a => if k = a then some v else Memory.read m a

/-- Write one byte of `BUF`; the byte is then initialised (R65). -/
def Memory.write : Memory → Nat → Byte → Memory
  | [], a, b => [(a, b)]
  | (k, v) :: m, a, b =>
    if a < k then (a, b) :: (k, v) :: m
    else if a = k then (a, b) :: m
    else (k, v) :: Memory.write m a b

/-- `MemRead(off, n)` (R12, R64): the bytes at off up to off + n - 1, or none if one is uninitialised. -/
def Memory.readBytes (m : Memory) (off : Nat) : Nat → Option (List Byte)
  | 0 => some []
  | n + 1 =>
    match m.read off, Memory.readBytes m (off + 1) n with
    | some b, some bs => some (b :: bs)
    | _, _ => none

/-- `MemWrite(off, n, s)` with n = len(s) (R12, R64). -/
def Memory.writeBytes (m : Memory) (off : Nat) : List Byte → Memory
  | [] => m
  | b :: bs => Memory.writeBytes (m.write off b) (off + 1) bs

/-- Make the n bytes at off uninitialised (R252 item 3). -/
def Memory.forget (m : Memory) (off n : Nat) : Memory :=
  m.filter fun cell => !(decide (off ≤ cell.1) && decide (cell.1 < off + n))

/-! ## Contexts -/

/-- `ctx[c]` (R44). -/
def State.ctx (s : State) : CtxId → Context
  | .ctx0 => s.ctx0
  | .ctx1 => s.ctx1

/-- Replace the record of context c; the other is not touched (R44). -/
def State.setCtx (s : State) (c : CtxId) (k : Context) : State :=
  match c with
  | .ctx0 => { s with ctx0 := k }
  | .ctx1 => { s with ctx1 := k }

/-- `ctx[c].VECTOR <- v` (R46). -/
def State.setVectorOf (s : State) (c : CtxId) (v : Word) : State :=
  s.setCtx c { s.ctx c with vector := v }

/-- `MemWrite` on the state (R12). -/
def State.store (s : State) (off : Nat) (bs : List Byte) : State :=
  { s with mem := s.mem.writeBytes off bs }

/-! ## The command life cycle -/

/-- A host write of `CMD` is accepted (R31). -/
def State.accept (s : State) (w : Word) : State :=
  { s with cmd := w, busy := true, done := false, annValid := false }

/-- A host write is dropped because the engine is busy (R29). -/
def State.dropWrite (s : State) : State :=
  { s with wdrop := true }

/-- The completion every command ends with: `CODE`, `RESULT`, `BUSY` <- 0, `DONE` <- 1 (R220 step 4, R36), and
`ANN_VALID` 0 unless the announce step that follows sets it (R28, R48, log 7). -/
def State.finish (s : State) (code : Code) (result : Word) : State :=
  { s with code := code, result := result, busy := false, done := true, annValid := false }

/-- `raise Complete(code)` with a code other than OK: nothing is committed but `RESULT` <- 0 (R220 step 3, R223). -/
def endWith (code : Code) (s : State) : Host.Outcome State Fault Refusal :=
  .next (s.finish code 0)

/-- `raise Complete(OK)` with `RESULT` <- result, on the state that holds the command's other writes (R220 step 2). -/
def endOk (result : Word) (s : State) : Host.Outcome State Fault Refusal :=
  .next (s.finish .ok result)

/-- A command's checks, then the rest of it: a failing check ends the command with its code (R220, R222, R223). -/
def checked (check : Code) (s : State) (rest : Unit → Host.Outcome State Fault Refusal) :
    Host.Outcome State Fault Refusal :=
  match check with
  | .ok => rest ()
  | code => endWith code s

/-- `MemRead` in a command: `F_UNINIT` if a byte is uninitialised, else the rest of the command on the bytes (R12, R65). -/
def withBytes (s : State) (off n : Nat) (rest : List Byte → Host.Outcome State Fault Refusal) :
    Host.Outcome State Fault Refusal :=
  match s.mem.readBytes off n with
  | none => .fault .uninit
  | some bs => rest bs

end Sys2Proof.Machine
end

