-- ==== Sys2Proof/Machine/Operands.lean ====
section
/-! DEFINITION. Operands, range checks and readiness (30_encoding.md R95, 20_memory.md R67, 42_cipher_wrapper.md R160). -/

namespace Sys2Proof.Machine

/-- `SRC` as a natural number (R32, R95). -/
def State.srcOff (s : State) : Nat := s.src.toNat

/-- `DST` as a natural number (R33, R95). -/
def State.dstOff (s : State) : Nat := s.dst.toNat

/-- `LEN` as a natural number (R34, R95). -/
def State.lenNat (s : State) : Nat := s.len.toNat

/-- The staged key K = `KEY_HI`:`KEY_LO` (R38, R122). -/
def State.stagedKey (s : State) : BitVec 64 := s.keyHi ++ s.keyLo

/-- The range check `off + n <= P_BUF_BYTES` on unbounded naturals (R9, R67). -/
def inBuf (P : Params) (off n : Nat) : Bool :=
  decide (off + n ≤ P.bufBytes)

/-- The largest length a 16-bit header carries (R166, R180). -/
def maxBody : Nat := 0xFFFF

/-- `ready_iv(c)`: the context has a vector (R160). -/
def readyIv (s : State) (c : CtxId) : Bool :=
  (s.ctx c).handshaken

/-- `ready_xf(c)`: the context has a key and a vector (R160). -/
def readyXf (s : State) (c : CtxId) : Bool :=
  (s.ctx c).keyed && (s.ctx c).handshaken

/-- The first failing check gives the code, OK if none fails (R222). -/
def firstFailure : List (Bool × Code) → Code
  | [] => .ok
  | (passes, code) :: rest => if passes then firstFailure rest else code

end Sys2Proof.Machine
end

