-- ==== Sys2Proof/Machine/Flags.lean ====
section
/-! DEFINITION. The flag registers as software reads and writes them (10_state.md R24, R25, R40, R41), `irq`
(60_exceptions.md R225), and the announce step (42_cipher_wrapper.md R181). There are no arithmetic flags (R48). -/

namespace Sys2Proof.Machine

/-- The number of a completion code (R221). -/
def Code.toByte : Code → Byte
  | .ok => 0x00
  | .notReady => 0x01
  | .illegalOp => 0x02
  | .reservedBits => 0x03
  | .lenRange => 0x04
  | .short => 0x05
  | .range => 0x06

/-- `irq` = `CTRL.IRQ_EN` AND `STATUS.DONE`, at every moment (R225). -/
def State.irq (s : State) : Bool :=
  s.irqEn && s.done

/-- `CTRL` as read: `SRST` and the reserved bits read 0 (R24). -/
def State.ctrlWord (s : State) : Word :=
  (0 : BitVec 31) ++ BitVec.ofBool s.irqEn

/-- `STATUS` as read, most significant field first (R25). -/
def State.statusWord (s : State) : Word :=
  (0 : BitVec 16) ++ (s.code.toByte ++ ((0 : BitVec 4) ++ (BitVec.ofBool s.wdrop ++ (BitVec.ofBool s.annValid ++
    (BitVec.ofBool s.done ++ BitVec.ofBool s.busy)))))

/-- A write of `STATUS` acts on the W1C fields `DONE` (bit 1) and `WDROP` (bit 3) alone (R25, R27, R29). -/
def State.writeStatus (s : State) (v : Word) : State :=
  { s with done := s.done && !v.getLsbD 1, wdrop := s.wdrop && !v.getLsbD 3 }

/-- `CTXn_STATUS` as read (R40). -/
def Context.statusWord (k : Context) : Word :=
  (0 : BitVec 30) ++ (BitVec.ofBool k.handshaken ++ BitVec.ofBool k.keyed)

/-- `CTXn_CFG` as read (R41). -/
def Context.cfgWord (k : Context) : Word :=
  (0 : BitVec 30) ++ (BitVec.ofBool k.announceEn ++ BitVec.ofBool k.shandaEn)

/-- `CTXn_CFG` as written: WARL, a bit hardwired to 0 where its feature is absent (R41, D22). -/
def Context.writeCfg (P : Params) (k : Context) (v : Word) : Context :=
  { k with shandaEn := P.hasShanda && v.getLsbD 0, announceEn := P.hasAnnounce && v.getLsbD 1 }

/-- `CTXn_VECTOR` as read: 0 while the context is not handshaken (R43). -/
def Context.vectorWord (k : Context) : Word :=
  if k.handshaken then k.vector else 0

/-- The announce step of an ENCRYPT that ends OK, on the vector after its shuffle (R181). -/
def State.announceStep (s : State) (c : CtxId) : State :=
  if (s.ctx c).announceEn && mustAnnounce (s.ctx c).vector then
    { s with announce := loHalf (s.ctx c).vector, annValid := true }
  else s

end Sys2Proof.Machine
end

