-- ==== Sys2Proof/Machine/IvEngine.lean ====
section
/-! DEFINITION. The shuffle, SET_VECTOR and IV_SHUFFLE (41_iv_engine.md). -/

namespace Sys2Proof.Machine

/-- One step of the shuffle's loop: the working key `K` after the input byte `b` (R146, R147). -/
def shuffleStep (P : Params) (K : Word) (b : Byte) : Word :=
  let a0 := byteOf K 0
  let a1 := byteOf K 1
  let a2 := byteOf K 2
  let a3 := byteOf K 3
  let n0 := a0 + (P.table a1 - b)
  let n1 := a1 - (a2 ^^^ P.table b)
  let n2 := a2 ^^^ (b + P.table a3)
  let k0 := match P.k3k0 with
    | .pre => a0
    | .post => n0
  let n3 := (a3 - k0) + P.table b
  rol32 (wordOf n0 n1 n2 n3) 3

/-- `shuffle` (R145, R146): the working key starts at the seed and takes the four bytes of v in order. -/
def shuffle (P : Params) (v : Word) : Word :=
  (bytes32 v).foldl (shuffleStep P) P.seed

/-- SET_VECTOR c (R141). -/
def execSetVector (c : CtxId) (s : State) : Host.Outcome State Fault Refusal :=
  endOk s.value (s.setCtx c { s.ctx c with vector := s.value, handshaken := true })

/-- The check of IV_SHUFFLE (R142). -/
def ivShuffleCheck (c : CtxId) (s : State) : Code :=
  firstFailure [(readyIv s c, .notReady)]

/-- IV_SHUFFLE c (R142): `RESULT` is the new vector. -/
def execIvShuffle (c : CtxId) (s : State) (P : Params := Config.params) : Host.Outcome State Fault Refusal :=
  checked (ivShuffleCheck c s) s fun _ =>
    let v := shuffle P (s.ctx c).vector
    endOk v (s.setVectorOf c v)

end Sys2Proof.Machine
end

