-- ==== Sys2Proof/Machine/Shanda.lean ====
section
/-! DEFINITION. The Shanda pass, SHANDA_ENC and SHANDA_DEC (43_shanda.md). Each sub-pass is a walk that carries
`xor_key` k and `remaining_len` L from one index to the next (R200); the A sub-passes walk from the last index down. -/

namespace Sys2Proof.Machine

/-- The start of `remaining_len`: n mod 256 (R200, R208). -/
def remainingLen (d : List Byte) : Byte :=
  BitVec.ofNat 8 d.length

/-- The walk of sub-pass A, in the order the indices are visited (R201). -/
def subADecWalk (k L : Byte) : List Byte → List Byte
  | [] => []
  | x :: xs =>
    let t := rol8 x 3 ^^^ shandaCA
    ror8 ((k ^^^ t) - L) 4 :: subADecWalk t (L - 1) xs

/-- Decryption sub-pass A, from high to low (R201). -/
def subADec (d : List Byte) : List Byte :=
  (subADecWalk 0 (remainingLen d) d.reverse).reverse

/-- The walk of sub-pass B (R202). -/
def subBDecWalk (k L : Byte) : List Byte → List Byte
  | [] => []
  | x :: xs =>
    let t := rol8 (~~~(x - shandaCB)) L.toNat
    ror8 ((k ^^^ t) - L) 3 :: subBDecWalk t (L - 1) xs

/-- Decryption sub-pass B, from low to high (R202). -/
def subBDec (d : List Byte) : List Byte :=
  subBDecWalk 0 (remainingLen d) d

/-- The walk of sub-pass B⁻¹ (R204). -/
def subBEncWalk (k L : Byte) : List Byte → List Byte
  | [] => []
  | x :: xs =>
    let t := (rol8 x 3 + L) ^^^ k
    (~~~(ror8 t L.toNat) + shandaCB) :: subBEncWalk t (L - 1) xs

/-- Encryption sub-pass B⁻¹, from low to high (R204, 90_conflicts.md C5). -/
def subBEnc (d : List Byte) : List Byte :=
  subBEncWalk 0 (remainingLen d) d

/-- The walk of sub-pass A⁻¹, in the order the indices are visited (R205). -/
def subAEncWalk (k L : Byte) : List Byte → List Byte
  | [] => []
  | x :: xs =>
    let t := (rol8 x 4 + L) ^^^ k
    ror8 (t ^^^ shandaCA) 3 :: subAEncWalk t (L - 1) xs

/-- Encryption sub-pass A⁻¹, from high to low (R205, 90_conflicts.md C5). -/
def subAEnc (d : List Byte) : List Byte :=
  (subAEncWalk 0 (remainingLen d) d.reverse).reverse

/-- Apply a pass n times. -/
def repeatPass (pass : List Byte → List Byte) : Nat → List Byte → List Byte
  | 0, d => d
  | n + 1, d => repeatPass pass n (pass d)

/-- `shanda_dec` (R203): three repetitions of A, then B. -/
def shandaDec (d : List Byte) : List Byte :=
  repeatPass (fun x => subBDec (subADec x)) shandaReps d

/-- `shanda_enc` (R206): three repetitions of B⁻¹, then A⁻¹. -/
def shandaEnc (d : List Byte) : List Byte :=
  repeatPass (fun x => subAEnc (subBEnc x)) shandaReps d

/-- The checks of SHANDA_ENC and SHANDA_DEC, in order (R209, R210). -/
def shandaCheck (P : Params) (s : State) : Code :=
  firstFailure [(inBuf P s.srcOff s.lenNat, .range), (inBuf P s.dstOff s.lenNat, .range)]

/-- SHANDA_ENC (R209). Without `P_HAS_SHANDA` the decoder has ended it ILLEGAL_OP (R96). -/
def execShandaEnc (s : State) (P : Params := Config.params) : Host.Outcome State Fault Refusal :=
  checked (shandaCheck P s) s fun _ =>
    withBytes s s.srcOff s.lenNat fun d => endOk s.len (s.store s.dstOff (shandaEnc d))

/-- SHANDA_DEC (R210). Without `P_HAS_SHANDA` the decoder has ended it ILLEGAL_OP (R96). -/
def execShandaDec (s : State) (P : Params := Config.params) : Host.Outcome State Fault Refusal :=
  checked (shandaCheck P s) s fun _ =>
    withBytes s s.srcOff s.lenNat fun d => endOk s.len (s.store s.dstOff (shandaDec d))

end Sys2Proof.Machine
end

