-- ==== Sys2Proof/Machine/Cipher.lean ====
section
/-! DEFINITION. The header, the stream transform, and HDR_BUILD, PKT_LEN, XFORM, ENCRYPT, DECRYPT and HS_STRIP
(42_cipher_wrapper.md). -/

namespace Sys2Proof.Machine

/-! ## Header and packet length -/

/-- The base of `header`: `ver` for to_client = false, `-(ver + 1)` in 16 bits for to_client = true (R161 to R163). -/
def headerBase (ver : Half) : Dir → Half
  | .tc0 => ver
  | .tc1 => 0 - (ver + 1)

/-- `header(ver, v, L, d)` = (h0, h1) (R161). -/
def header (ver : Half) (v : Word) (L : Half) (d : Dir) : Half × Half :=
  let h0 := headerBase ver d ^^^ hiHalf v
  (h0, h0 ^^^ L)

/-- The header's bytes: h0 then h1, each little-endian (R161, R191). -/
def headerBytes (h : Half × Half) : List Byte :=
  bytes16 h.1 ++ bytes16 h.2

/-- `h0 + 65536 * h1` (R166). -/
def headerWord (h : Half × Half) : Word :=
  h.2 ++ h.1

/-- `packet_length(s)` (R164). -/
def packetLength (s : List Byte) : Half :=
  le16 s 0 ^^^ le16 s 2

/-! ## The stream transform -/

/-- `W0(v)`: the vector's four bytes tiled four times (R170). -/
def tile (v : Word) : Block :=
  #v[byteOf v 0, byteOf v 1, byteOf v 2, byteOf v 3, byteOf v 0, byteOf v 1, byteOf v 2, byteOf v 3,
     byteOf v 0, byteOf v 1, byteOf v 2, byteOf v 3, byteOf v 0, byteOf v 1, byteOf v 2, byteOf v 3]

/-- Byte `o mod 16` of a keystream block (R173). -/
def blockByte (W : Block) (o : Nat) : Byte :=
  W[o % 16]'(Nat.mod_lt o (by decide))

/-- The loop of `xform` (R174), one body byte a turn. `limit` is the size a full chunk has here, `o` the chunk offset and
`W` the working IV. At a chunk's end the next chunk starts with `W` rebuilt from `v` (R170, R171); before each sub-block
`W` is replaced by its transform (R172). -/
def xformWalk (P : Params) (ek : ExpandedKey) (v : Word) (limit o : Nat) (W : Block) : List Byte → List Byte
  | [] => []
  | x :: xs =>
    let fresh := decide (o = limit)
    let limit' := if fresh then chunkNext else limit
    let o' := if fresh then 0 else o
    let W' := if fresh then tile v else W
    let K := if o' % subBlock = 0 then P.bt ek W' else W'
    (x ^^^ blockByte K o') :: xformWalk P ek v limit' (o' + 1) K xs

/-- `xform(ek, v, data)` (R174). It does not shuffle. -/
def xform (P : Params) (ek : ExpandedKey) (v : Word) (data : List Byte) : List Byte :=
  xformWalk P ek v chunkFirst 0 (tile v) data

/-! ## Commands -/

/-- The checks of HDR_BUILD, in order (R166). -/
def hdrBuildCheck (P : Params) (c : CtxId) (s : State) : Code :=
  firstFailure [(readyIv s c, .notReady), (decide (s.lenNat ≤ maxBody), .lenRange), (inBuf P s.dstOff hdrBytes, .range)]

/-- HDR_BUILD c, d (R166). The vector is not shuffled. -/
def execHdrBuild (c : CtxId) (d : Dir) (s : State) (P : Params := Config.params) :
    Host.Outcome State Fault Refusal :=
  checked (hdrBuildCheck P c s) s fun _ =>
    let h := header (s.ctx c).version (s.ctx c).vector (loHalf s.len) d
    endOk (headerWord h) (s.store s.dstOff (headerBytes h))

/-- The check of PKT_LEN (R167). -/
def pktLenCheck (P : Params) (s : State) : Code :=
  firstFailure [(inBuf P s.srcOff hdrBytes, .range)]

/-- PKT_LEN (R167). -/
def execPktLen (s : State) (P : Params := Config.params) : Host.Outcome State Fault Refusal :=
  checked (pktLenCheck P s) s fun _ =>
    withBytes s s.srcOff hdrBytes fun hdr => endOk ((packetLength hdr).setWidth 32) s

/-- The checks of XFORM, in order (R177). -/
def xformCheck (P : Params) (c : CtxId) (s : State) : Code :=
  firstFailure [(readyXf s c, .notReady), (inBuf P s.srcOff s.lenNat, .range), (inBuf P s.dstOff s.lenNat, .range)]

/-- XFORM c (R177): the transform alone, and one shuffle. -/
def execXform (c : CtxId) (s : State) (P : Params := Config.params) : Host.Outcome State Fault Refusal :=
  checked (xformCheck P c s) s fun _ =>
    withBytes s s.srcOff s.lenNat fun body =>
      let v := (s.ctx c).vector
      endOk s.len ((s.setVectorOf c (shuffle P v)).store s.dstOff (xform P (s.ctx c).ek v body))

/-- The checks of ENCRYPT, in order (R180). -/
def encryptCheck (P : Params) (c : CtxId) (s : State) : Code :=
  firstFailure [(readyXf s c, .notReady), (decide (s.lenNat ≤ maxBody), .lenRange),
    (inBuf P s.srcOff s.lenNat, .range), (inBuf P s.dstOff (hdrBytes + s.lenNat), .range)]

/-- The frame ENCRYPT writes: the header of the vector before the shuffle, then the body, through the Shanda pass where
the context enables it and then the transform (R180, R182, R186). -/
def encryptFrame (P : Params) (k : Context) (d : Dir) (body : List Byte) : List Byte :=
  let h := header k.version k.vector (BitVec.ofNat 16 body.length) d
  let plain := if k.shandaEn then shandaEnc body else body
  headerBytes h ++ xform P k.ek k.vector plain

/-- ENCRYPT c, d (R180), with its announce step (R181). -/
def execEncrypt (c : CtxId) (d : Dir) (s : State) (P : Params := Config.params) :
    Host.Outcome State Fault Refusal :=
  checked (encryptCheck P c s) s fun _ =>
    withBytes s s.srcOff s.lenNat fun body =>
      let s1 := (s.setVectorOf c (shuffle P (s.ctx c).vector)).store s.dstOff (encryptFrame P (s.ctx c) d body)
      .next ((s1.finish .ok (s.len + 4)).announceStep c)

/-- The checks of DECRYPT before it reads the header, in order (R185). -/
def decryptCheck (P : Params) (c : CtxId) (s : State) : Code :=
  firstFailure [(readyXf s c, .notReady), (decide (hdrBytes ≤ s.lenNat), .short), (inBuf P s.srcOff s.lenNat, .range)]

/-- The checks of DECRYPT and HS_STRIP on the body length m the header or prefix of `hdr` bytes gives (R185, R190). -/
def bodyCheck (P : Params) (hdr m : Nat) (s : State) : Code :=
  firstFailure [(decide (hdr + m ≤ s.lenNat), .short), (inBuf P s.dstOff m, .range)]

/-- The plaintext DECRYPT recovers: the transform, then the Shanda pass where the context enables it (R185, R186). The
header is not checked (R187). -/
def decryptBody (P : Params) (k : Context) (body : List Byte) : List Byte :=
  let pt := xform P k.ek k.vector body
  if k.shandaEn then shandaDec pt else pt

/-- DECRYPT c (R185). The header is read before the last two checks. -/
def execDecrypt (c : CtxId) (s : State) (P : Params := Config.params) : Host.Outcome State Fault Refusal :=
  checked (decryptCheck P c s) s fun _ =>
    withBytes s s.srcOff hdrBytes fun hdr =>
      let m := packetLength hdr
      checked (bodyCheck P hdrBytes m.toNat s) s fun _ =>
        withBytes s (s.srcOff + hdrBytes) m.toNat fun body =>
          endOk (m.setWidth 32)
            ((s.setVectorOf c (shuffle P (s.ctx c).vector)).store s.dstOff (decryptBody P (s.ctx c) body))

/-- The length of a handshake frame's prefix (R190, R192). -/
def prefixBytes : Nat := 2

/-- The checks of HS_STRIP before it reads the length field, in order (R190). -/
def hsStripCheck (P : Params) (s : State) : Code :=
  firstFailure [(decide (prefixBytes ≤ s.lenNat), .short), (inBuf P s.srcOff s.lenNat, .range)]

/-- HS_STRIP (R190): copy the body down; no context is read or written. -/
def execHsStrip (s : State) (P : Params := Config.params) : Host.Outcome State Fault Refusal :=
  checked (hsStripCheck P s) s fun _ =>
    withBytes s s.srcOff prefixBytes fun pre =>
      let m := le16 pre 0
      checked (bodyCheck P prefixBytes m.toNat s) s fun _ =>
        withBytes s (s.srcOff + prefixBytes) m.toNat fun body =>
          endOk (m.setWidth 32) (s.store s.dstOff body)

end Sys2Proof.Machine
end

