-- ==== Sys2Proof/Machine/Control.lean ====
section
/-! DEFINITION. NOP and CTX_INIT (40_control.md). -/

namespace Sys2Proof.Machine

/-- NOP (R120). -/
def execNop (s : State) : Host.Outcome State Fault Refusal :=
  endOk 0 s

/-- Byte i of K, most significant first: K[63-8i : 56-8i] (R121). -/
def keyByte (K : BitVec 64) (i : Nat) : Byte :=
  K.extractLsb' (56 - 8 * i) 8

/-- `expand_key` (R121): each byte of K, most significant first, then three zero bytes. -/
def expandKey (K : BitVec 64) : ExpandedKey :=
  #v[keyByte K 0, 0, 0, 0, keyByte K 1, 0, 0, 0, keyByte K 2, 0, 0, 0, keyByte K 3, 0, 0, 0,
     keyByte K 4, 0, 0, 0, keyByte K 5, 0, 0, 0, keyByte K 6, 0, 0, 0, keyByte K 7, 0, 0, 0]

/-- CTX_INIT c (R122): key the context from the staged key and version, and clear its vector and `HANDSHAKEN`. -/
def execCtxInit (c : CtxId) (s : State) : Host.Outcome State Fault Refusal :=
  endOk 0 (s.setCtx c { s.ctx c with
    ek := expandKey s.stagedKey, version := s.version, keyed := true, handshaken := false, vector := 0 })

end Sys2Proof.Machine
end

