-- ==== Sys2Proof/Machine/Dispatch.lean ====
section
/-! DEFINITION. One arm per command of opcode_table.json. -/

namespace Sys2Proof.Machine

def exec (i : Instr) (s : State) : Host.Outcome State Fault Refusal :=
  match i with
  | .nop => Sys2Proof.Machine.execNop s
  | .ctxInit c => Sys2Proof.Machine.execCtxInit c s
  | .setVector c => Sys2Proof.Machine.execSetVector c s
  | .ivShuffle c => Sys2Proof.Machine.execIvShuffle c s
  | .hdrBuild c d => Sys2Proof.Machine.execHdrBuild c d s
  | .pktLen => Sys2Proof.Machine.execPktLen s
  | .xform c => Sys2Proof.Machine.execXform c s
  | .encrypt c d => Sys2Proof.Machine.execEncrypt c d s
  | .decrypt c => Sys2Proof.Machine.execDecrypt c s
  | .hsStrip => Sys2Proof.Machine.execHsStrip s
  | .shandaEnc => Sys2Proof.Machine.execShandaEnc s
  | .shandaDec => Sys2Proof.Machine.execShandaDec s

end Sys2Proof.Machine
end

