-- ==== Sys2Proof/WellFormed.lean ====
section
/-! DEFINITION. When a command and a command word are well formed (30_encoding.md R94, R96, R97). -/

namespace Sys2Proof

/-- The commands of the build variant with the Shanda pass (R96 step 2, D22). -/
def Instr.needsShanda : Instr → Bool
  | .nop => false
  | .ctxInit _ => false
  | .setVector _ => false
  | .ivShuffle _ => false
  | .hdrBuild _ _ => false
  | .pktLen => false
  | .xform _ => false
  | .encrypt _ _ => false
  | .decrypt _ => false
  | .hsStrip => false
  | .shandaEnc => true
  | .shandaDec => true

/-- A command is well formed on an implementation that has it (R96 step 2). Its operands are well formed by type. -/
def Instr.wellFormed (P : Params) (i : Instr) : Bool :=
  !i.needsShanda || P.hasShanda

/-- The opcode is assigned (R91, R96 step 1). -/
def Cmd32.opAssigned (f : Cmd32) : Bool :=
  decide (f.op.toNat ≤ 0x0B)

/-- The opcode is not one of the two that need `P_HAS_SHANDA`, or the implementation has it (R96 step 2). -/
def Cmd32.opAvailable (P : Params) (f : Cmd32) : Bool :=
  !(decide (f.op = 0x0A) || decide (f.op = 0x0B)) || P.hasShanda

/-- Bits [31:10] are 0 (R94, R96 step 3). -/
def Cmd32.reservedClear (f : Cmd32) : Bool :=
  decide (f.reserved = 0)

/-- A command word that executes (R96 step 4). -/
def Cmd32.wellFormed (P : Params) (f : Cmd32) : Bool :=
  f.opAssigned && f.opAvailable P && f.reservedClear

end Sys2Proof
end

