-- ==== Sys2Proof/Decode.lean ====
section
/-! DEFINITION. Decoding a command word (30_encoding.md R90 to R97) and, after it, encoding a command. -/

namespace Sys2Proof

/-- Why a word is no command (R96 steps 1 to 3). -/
inductive DecodeError where
  | illegalOp
  | reservedBits
deriving DecidableEq, Repr

/-- The fields of a command word (R90). -/
def cmdFields (w : Word) : Cmd32 where
  op := w.extractLsb' 0 8
  ctx := w.getLsbD 8
  dir := w.getLsbD 9
  reserved := w.extractLsb' 10 22

/-- `CTX` selects the context (R92). -/
def ctxOfBit (b : Bool) : CtxId :=
  if b then .ctx1 else .ctx0

/-- `DIR` is `to_client` (R93). -/
def dirOfBit (b : Bool) : Dir :=
  if b then .tc1 else .tc0

/-- The opcode map (R97). Commands that ignore `CTX` or `DIR` drop it. -/
def opcodeMap (op : Byte) (c : CtxId) (d : Dir) : Option Instr :=
  match op.toNat with
  | 0x00 => some .nop
  | 0x01 => some (.ctxInit c)
  | 0x02 => some (.setVector c)
  | 0x03 => some (.ivShuffle c)
  | 0x04 => some (.hdrBuild c d)
  | 0x05 => some .pktLen
  | 0x06 => some (.xform c)
  | 0x07 => some (.encrypt c d)
  | 0x08 => some (.decrypt c)
  | 0x09 => some .hsStrip
  | 0x0A => some .shandaEnc
  | 0x0B => some .shandaDec
  | _ => none

/-- The four decoding steps of R96, in order. Total on every word. -/
def decodeWord (P : Params) (w : Word) : Except DecodeError Instr :=
  let f := cmdFields w
  match opcodeMap f.op (ctxOfBit f.ctx) (dirOfBit f.dir) with
  | none => .error .illegalOp
  | some i =>
    if i.wellFormed P = false then .error .illegalOp
    else if f.reservedClear = false then .error .reservedBits
    else .ok i

/-- The instruction the decoder reads from the table's bits. A command is one 32-bit word (R90), so there is one
word to lay out and it reaches the decoder whole, through `CMD`. -/
def decodeTableWord (nbits w : Nat) : Option Instr :=
  match decodeWord Config.params (BitVec.ofNat 32 (w % 2 ^ nbits)) with
  | .ok i => some i
  | .error _ => none

/-! ## Encoding -/

/-- The opcode of a command (R97). -/
def Instr.opcode : Instr → Byte
  | .nop => 0x00
  | .ctxInit _ => 0x01
  | .setVector _ => 0x02
  | .ivShuffle _ => 0x03
  | .hdrBuild _ _ => 0x04
  | .pktLen => 0x05
  | .xform _ => 0x06
  | .encrypt _ _ => 0x07
  | .decrypt _ => 0x08
  | .hsStrip => 0x09
  | .shandaEnc => 0x0A
  | .shandaDec => 0x0B

/-- The `CTX` bit of a context (R92). -/
def CtxId.bit : CtxId → Bool
  | .ctx0 => false
  | .ctx1 => true

/-- The `DIR` bit of a direction (R93). -/
def Dir.bit : Dir → Bool
  | .tc0 => false
  | .tc1 => true

/-- The `CTX` bit a command carries, and none where the command ignores it (R92). -/
def Instr.ctxBit : Instr → Option Bool
  | .nop => none
  | .ctxInit c => some c.bit
  | .setVector c => some c.bit
  | .ivShuffle c => some c.bit
  | .hdrBuild c _ => some c.bit
  | .pktLen => none
  | .xform c => some c.bit
  | .encrypt c _ => some c.bit
  | .decrypt c => some c.bit
  | .hsStrip => none
  | .shandaEnc => none
  | .shandaDec => none

/-- The `DIR` bit a command carries, and none where the command ignores it (R93). -/
def Instr.dirBit : Instr → Option Bool
  | .nop => none
  | .ctxInit _ => none
  | .setVector _ => none
  | .ivShuffle _ => none
  | .hdrBuild _ d => some d.bit
  | .pktLen => none
  | .xform _ => none
  | .encrypt _ d => some d.bit
  | .decrypt _ => none
  | .hsStrip => none
  | .shandaEnc => none
  | .shandaDec => none

/-- A word from its fields, most significant field first (R90). -/
def cmdWord (f : Cmd32) : Word :=
  f.reserved ++ (BitVec.ofBool f.dir ++ (BitVec.ofBool f.ctx ++ f.op))

/-- The word `cmd` writes for a command (R90, R100): reserved bits 0, and an ignored `CTX` or `DIR` bit 0 (log 10). -/
def encode (i : Instr) : Word :=
  cmdWord { op := i.opcode, ctx := i.ctxBit.getD false, dir := i.dirBit.getD false, reserved := 0 }

/-- The bits of a word that decide its command: `OP`, the reserved bits, and `CTX` and `DIR` where the command reads
them (R90, R92, R93). -/
def Instr.encodingMask (i : Instr) : Word :=
  cmdWord { op := 0xFF, ctx := i.ctxBit.isSome, dir := i.dirBit.isSome, reserved := BitVec.allOnes 22 }

end Sys2Proof
end

