-- ==== Sys2Proof/Machine/Abort.lean ====
section
/-! DEFINITION. The soft reset, and the destination range of the command it aborts (70_reset_and_hazards.md R252). -/

namespace Sys2Proof.Machine

/-- The longest body that would pass the checks of DECRYPT or HS_STRIP, for a header or length field of `hdr` bytes. -/
def longestBody (P : Params) (hdr : Nat) (s : State) : Nat :=
  min (s.lenNat - hdr) (min (P.bufBytes - s.dstOff) maxBody)

/-- The number of bytes DECRYPT or HS_STRIP would write: the body length, if it passes its checks. Where the header is
uninitialised its value is unspecified, so every body it could give is covered (DEDUCED, safe, log 6). -/
def bodyDestLen (P : Params) (hdr : Nat) (lenOf : List Byte → Half) (s : State) : Nat :=
  match s.mem.readBytes s.srcOff hdr with
  | some bytes => if bodyCheck P hdr (lenOf bytes).toNat s = .ok then (lenOf bytes).toNat else 0
  | none => longestBody P hdr s

/-- n bytes if the checks pass, none otherwise. -/
def destLenIf (check : Code) (n : Nat) : Nat :=
  if check = .ok then n else 0

/-- The number of bytes from `DST` on that a command would write if it completed now (R252 item 3). -/
def destLen (P : Params) (s : State) : Instr → Nat
  | .nop => 0
  | .ctxInit _ => 0
  | .setVector _ => 0
  | .ivShuffle _ => 0
  | .hdrBuild c _ => destLenIf (hdrBuildCheck P c s) hdrBytes
  | .pktLen => 0
  | .xform c => destLenIf (xformCheck P c s) s.lenNat
  | .encrypt c _ => destLenIf (encryptCheck P c s) (hdrBytes + s.lenNat)
  | .decrypt c => destLenIf (decryptCheck P c s) (bodyDestLen P hdrBytes packetLength s)
  | .hsStrip => destLenIf (hsStripCheck P s) (bodyDestLen P prefixBytes (fun b => le16 b 0) s)
  | .shandaEnc => destLenIf (shandaCheck P s) s.lenNat
  | .shandaDec => destLenIf (shandaCheck P s) s.lenNat

/-- The number of bytes from `DST` on that the pending command would write; 0 when none is pending or its word is no
command. -/
def pendingDestLen (P : Params) (s : State) : Nat :=
  if s.busy then
    match decodeWord P s.cmd with
    | .ok i => destLen P s i
    | .error _ => 0
  else 0

/-- The soft reset (R252): every register, flag and context field at its value of R53, and `BUF` kept, less the bytes
the aborted command would have written. The host's own `inputs` and `readData` are not the block's. -/
def softReset (P : Params) (s : State) : State :=
  { State.reset with
    mem := s.mem.forget s.dstOff (pendingDestLen P s), inputs := s.inputs, readData := s.readData }

/-- A power-on reset (R251): as the soft reset, but every `BUF` byte is uninitialised. -/
def powerOnReset (s : State) : State :=
  { State.reset with inputs := s.inputs, readData := s.readData }

end Sys2Proof.Machine
end

