-- ==== Sys2Proof/Machine/Bus.lean ====
section
/-! DEFINITION. Host bus accesses: the register file (10_state.md R22 to R43) and the window (20_memory.md R60 to R63,
R69), with the busy rules (10_state.md R29, 70_reset_and_hazards.md R258, R259). -/

namespace Sys2Proof.Machine

/-- The offset of a register in the window (R22). -/
def regOffset : Reg → Nat
  | .id => 0x000
  | .ctrl => 0x004
  | .status => 0x008
  | .cmd => 0x00C
  | .src => 0x010
  | .dst => 0x014
  | .len => 0x018
  | .value => 0x01C
  | .result => 0x020
  | .announce => 0x024
  | .keyLo => 0x028
  | .keyHi => 0x02C
  | .version => 0x030
  | .ctxStatus .ctx0 => 0x040
  | .ctxCfg .ctx0 => 0x044
  | .ctxVersion .ctx0 => 0x048
  | .ctxVector .ctx0 => 0x04C
  | .ctxStatus .ctx1 => 0x060
  | .ctxCfg .ctx1 => 0x064
  | .ctxVersion .ctx1 => 0x068
  | .ctxVector .ctx1 => 0x06C

/-- The register at an aligned offset of the register file; none where it is reserved (R22). -/
def regAt (off : Nat) : Option Reg :=
  match off with
  | 0x000 => some .id
  | 0x004 => some .ctrl
  | 0x008 => some .status
  | 0x00C => some .cmd
  | 0x010 => some .src
  | 0x014 => some .dst
  | 0x018 => some .len
  | 0x01C => some .value
  | 0x020 => some .result
  | 0x024 => some .announce
  | 0x028 => some .keyLo
  | 0x02C => some .keyHi
  | 0x030 => some .version
  | 0x040 => some (.ctxStatus .ctx0)
  | 0x044 => some (.ctxCfg .ctx0)
  | 0x048 => some (.ctxVersion .ctx0)
  | 0x04C => some (.ctxVector .ctx0)
  | 0x060 => some (.ctxStatus .ctx1)
  | 0x064 => some (.ctxCfg .ctx1)
  | 0x068 => some (.ctxVersion .ctx1)
  | 0x06C => some (.ctxVector .ctx1)
  | _ => none

/-- What a register reads as (R22 to R43). Write-only registers read 0. -/
def State.readReg (s : State) : Reg → Word
  | .id => idWord
  | .ctrl => s.ctrlWord
  | .status => s.statusWord
  | .cmd => s.cmd
  | .src => s.src
  | .dst => s.dst
  | .len => s.len
  | .value => s.value
  | .result => s.result
  | .announce => s.announce.setWidth 32
  | .keyLo => 0
  | .keyHi => 0
  | .version => s.version.setWidth 32
  | .ctxStatus c => (s.ctx c).statusWord
  | .ctxCfg c => (s.ctx c).cfgWord
  | .ctxVersion c => (s.ctx c).version.setWidth 32
  | .ctxVector c => (s.ctx c).vectorWord

/-- What an aligned offset of the register file reads as; a reserved offset reads 0 (R22). -/
def State.readRegAt (s : State) (off : Nat) : Word :=
  match regAt off with
  | some r => s.readReg r
  | none => 0

/-- The registers whose writes are dropped while the engine is busy (R29). -/
def heldWhileBusy : Reg → Bool
  | .id => false
  | .ctrl => false
  | .status => false
  | .cmd => true
  | .src => true
  | .dst => true
  | .len => true
  | .value => true
  | .result => false
  | .announce => false
  | .keyLo => true
  | .keyHi => true
  | .version => true
  | .ctxStatus _ => false
  | .ctxCfg _ => true
  | .ctxVersion _ => false
  | .ctxVector _ => false

/-- A write of `CTRL`: a 1 in `SRST` resets the block, whatever bit 0 holds; else bit 0 is `IRQ_EN` (R24, R252). -/
def State.writeCtrl (P : Params) (s : State) (v : Word) : State :=
  if v.getLsbD 1 then softReset P s else { s with irqEn := v.getLsbD 0 }

/-- A register write that is not dropped (R22 to R43). Read-only registers ignore it. -/
def State.putReg (P : Params) (s : State) (v : Word) : Reg → State
  | .id => s
  | .ctrl => s.writeCtrl P v
  | .status => s.writeStatus v
  | .cmd => s.accept v
  | .src => { s with src := v }
  | .dst => { s with dst := v }
  | .len => { s with len := v }
  | .value => { s with value := v }
  | .result => s
  | .announce => s
  | .keyLo => { s with keyLo := v }
  | .keyHi => { s with keyHi := v }
  | .version => { s with version := loHalf v }
  | .ctxStatus _ => s
  | .ctxCfg c => s.setCtx c ((s.ctx c).writeCfg P v)
  | .ctxVersion _ => s
  | .ctxVector _ => s

/-- A host register write (R29, R258). -/
def State.writeReg (P : Params) (s : State) (r : Reg) (v : Word) : State :=
  if s.busy && heldWhileBusy r then s.dropWrite else s.putReg P v r

/-- A host write to an aligned offset of the register file; a reserved offset ignores it (R22). -/
def State.writeRegAt (P : Params) (s : State) (off : Nat) (v : Word) : State :=
  match regAt off with
  | some r => s.writeReg P r v
  | none => s

/-- The end of the register file in the window (R60). -/
def regFileEnd : Nat := 0x100

/-- The number of bytes an access covers. -/
def widthBytes : Width → Nat
  | .w8 => 1
  | .w16 => 2
  | .w32 => 4
  | .w64 => 8

/-- The register accesses R61 admits. -/
def regAccessOk (w : Width) (off : Nat) : Bool :=
  decide (w = .w32) && decide (off % 4 = 0)

/-- The `BUF` accesses R63 admits, by width and `BUF` offset. -/
def bufAccessOk : Width → Nat → Bool
  | .w8, _ => true
  | .w16, k => decide (k % 2 = 0)
  | .w32, k => decide (k % 4 = 0)
  | .w64, _ => false

/-- The parts of the window (R60). -/
def accessOffset : Access → Nat
  | .read _ off => off
  | .write _ off _ => off

/-- The width of an access. -/
def accessWidth : Access → Width
  | .read w _ => w
  | .write w _ _ => w

/-- The data a host read returns. -/
def State.answer (s : State) (data : Word) : State :=
  { s with readData := some data }

/-- An access to the register file that R61 admits (R69: a read changes nothing of the block). -/
def regAccess (P : Params) (a : Access) (s : State) : Host.Outcome State Fault Refusal :=
  match a with
  | .read _ off => .next (s.answer (s.readRegAt off))
  | .write _ off v => .next (s.writeRegAt P off v)

/-- An access to `BUF` that R63 admits, little-endian (R63, R65, R66). -/
def bufAccess (P : Params) (a : Access) (s : State) : Host.Outcome State Fault Refusal :=
  match a with
  | .read w off => withBytes s (off - P.bufBytes) (widthBytes w) fun bs => .next (s.answer (le32 bs 0))
  | .write w off v => .next (s.store (off - P.bufBytes) ((bytes32 v).take (widthBytes w)))

/-- A host access (R60 to R63, R231). An access R61 to R63 reject is `F_BUS`, also while busy (log 5); a `BUF` access
while busy is `F_HAZARD` (R259), also a read of an uninitialised byte, for which R65 and R259 give no order (DESIGN
CHOICE, safe, log 15). -/
def hostAccess (P : Params) (a : Access) (s : State) : Host.Outcome State Fault Refusal :=
  if accessOffset a < regFileEnd then
    if regAccessOk (accessWidth a) (accessOffset a) then regAccess P a s else .fault .bus
  else if accessOffset a < P.bufBytes then .fault .bus
  else if accessOffset a < 2 * P.bufBytes then
    if bufAccessOk (accessWidth a) (accessOffset a - P.bufBytes) then
      if s.busy then .fault .hazard else bufAccess P a s
    else .fault .bus
  else .fault .outsideWindow

end Sys2Proof.Machine
end

