-- ==== Sys2Proof/Machine/Engine.lean ====
section
/-! DEFINITION. The engine's completion step and the machine's one step, over whatever runs a command
(60_exceptions.md R220, 30_encoding.md R96), and the commands on any implementation (`execWith`). -/

namespace Sys2Proof.Machine

/-- Every command's meaning on the implementation `P`; `exec` is this on `Config.params`. -/
def execWith (P : Params) (i : Instr) (s : State) : Host.Outcome State Fault Refusal :=
  match i with
  | .nop => execNop s
  | .ctxInit c => execCtxInit c s
  | .setVector c => execSetVector c s
  | .ivShuffle c => execIvShuffle c s P
  | .hdrBuild c d => execHdrBuild c d s P
  | .pktLen => execPktLen s P
  | .xform c => execXform c s P
  | .encrypt c d => execEncrypt c d s P
  | .decrypt c => execDecrypt c s P
  | .hsStrip => execHsStrip s P
  | .shandaEnc => execShandaEnc s P
  | .shandaDec => execShandaDec s P

/-- The completion step of the pending command: decode `CMD` (R96) and run it, or end with the decoder's code (R220). -/
def complete (P : Params) (run : Instr → State → Host.Outcome State Fault Refusal) (s : State) :
    Host.Outcome State Fault Refusal :=
  match decodeWord P s.cmd with
  | .ok i => run i s
  | .error .illegalOp => endWith .illegalOp s
  | .error .reservedBits => endWith .reservedBits s

/-- The engine's step, enabled while a command is pending (R52, R220); an idle engine changes nothing (R254). -/
def engineStep (P : Params) (run : Instr → State → Host.Outcome State Fault Refusal) (s : State) :
    Host.Outcome State Fault Refusal :=
  if s.busy then complete P run s else .next s

/-- One step: the first event of `inputs`, and the engine's step when none is left (log 1). -/
def stepOn (P : Params) (run : Instr → State → Host.Outcome State Fault Refusal) (s : State) :
    Host.Outcome State Fault Refusal :=
  match s.inputs with
  | [] => engineStep P run s
  | .engine :: rest => engineStep P run { s with inputs := rest }
  | .bus a :: rest => hostAccess P a { s with inputs := rest }
  | .powerOn :: rest => .next (powerOnReset { s with inputs := rest })

/-- The state in which `w` is the pending command and nothing comes before its completion: the host's write of `w` to
`CMD` accepted (R31), and no event left. -/
def State.withPending (s : State) (w : Word) : State :=
  { s with inputs := [] }.accept w

end Sys2Proof.Machine
end

