-- ==== Sys2Proof/Machine/Step.lean ====
section
/-! DEFINITION. One step of the machine, and the host's way of placing a command where the next step runs it. -/

namespace Sys2Proof.Machine

/-- One step of the machine on the default configuration (R5, R72, R220). -/
def step (s : State) : Host.Outcome State Fault Refusal :=
  stepOn Config.params exec s

/-- `s` with the command word `w` accepted and pending, so that the next step completes it (log 1). -/
def State.withFetchWord (s : State) (nbits w : Nat) : State :=
  s.withPending (BitVec.ofNat 32 (w % 2 ^ nbits))

end Sys2Proof.Machine
end

