-- ==== Sys2Proof/Safety.lean ====
section
/-! DEFINITION. What statements about runs are phrased in: safe states, the invariant of the block, and observations. -/

namespace Sys2Proof.Machine

/-- The next step is no model fault (R230). -/
def State.Safe (s : State) : Prop :=
  ∀ f, step s ≠ .fault f

/-- What every context keeps: a context that was never keyed has the reset key and version, one that is not handshaken
has the vector 0, an expanded key has 0 outside every fourth byte (R44, R47, R53, R121), and a feature the
implementation lacks is off (R41). -/
structure Context.Inv (P : Params) (k : Context) : Prop where
  unkeyed : k.keyed = false → k.ek = Context.reset.ek ∧ k.version = 0
  noVector : k.handshaken = false → k.vector = 0
  ekZeros : ∀ (j : Nat) (h : j < 32), j % 4 ≠ 0 → k.ek[j] = 0
  shandaHardwired : k.shandaEn = true → P.hasShanda = true
  announceHardwired : k.announceEn = true → P.hasAnnounce = true

/-- What every step keeps. -/
structure State.Inv (P : Params) (s : State) : Prop where
  /-- `BUF` is in its canonical form (R54). -/
  memWf : s.mem.wf
  /-- `BUF` holds only offsets of `BUF` (R54, R67). -/
  memInBuf : ∀ cell ∈ s.mem, cell.1 < P.bufBytes
  /-- A pending command has neither `DONE` nor `ANN_VALID` (R27, R28, R31). -/
  pendingFlags : s.busy = true → s.done = false ∧ s.annValid = false
  /-- `ANN_VALID` comes only from a command that ended OK (R28). -/
  announceOk : s.annValid = true → s.code = .ok
  /-- `ANNOUNCE` holds only values `must_announce` admits (R37, R45, R181). -/
  announceValue : s.announce.toNat % announceMod = 0
  ctx0 : s.ctx0.Inv P
  ctx1 : s.ctx1.Inv P

/-- Two states that software cannot tell apart by reading registers: equal but for the staged key and the expanded keys
(R49, R50). -/
def State.sameButKeys (s t : State) : Prop :=
  ∃ lo hi ek0 ek1, t = { s with
    keyLo := lo, keyHi := hi, ctx0 := { s.ctx0 with ek := ek0 }, ctx1 := { s.ctx1 with ek := ek1 } }

/-- A `BUF` offset lies in the n bytes at off. -/
def inRange (off n a : Nat) : Prop :=
  off ≤ a ∧ a < off + n

/-- `BUF` holds the byte sequence `bs` at off, every byte initialised. -/
def State.holds (s : State) (off : Nat) (bs : List Byte) : Prop :=
  ∀ (j : Nat) (h : j < bs.length), s.mem.read (off + j) = some bs[j]

/-! ## The words of the statements -/

/-- `BUF` after differs from `BUF` before by the bytes `bs` written at off, and nowhere else. -/
def State.wrote (s t : State) (off : Nat) (bs : List Byte) : Prop :=
  t.holds off bs ∧ ∀ a, ¬ inRange off bs.length a → t.mem.read a = s.mem.read a

/-- The state after a command ended with an error code and did nothing else (R223). -/
def State.failed (s : State) (code : Code) : State :=
  { s with code := code, result := 0, busy := false, done := true, annValid := false }

/-- A command ended OK with this `RESULT` and no announce, and changed nothing but contexts and `BUF` besides. -/
def State.okFrame (s t : State) (result : Word) : Prop :=
  t = { s with
    code := .ok, result := result, busy := false, done := true, annValid := false
    ctx0 := t.ctx0, ctx1 := t.ctx1, mem := t.mem }

/-- The contexts but c are unchanged. -/
def State.otherCtxKept (s t : State) (c : CtxId) : Prop :=
  ∀ c', c' ≠ c → t.ctx c' = s.ctx c'

/-- The context has a key and a vector (R160). -/
def State.ready (s : State) (c : CtxId) : Prop :=
  (s.ctx c).keyed = true ∧ (s.ctx c).handshaken = true

/-- A byte of the n at off is uninitialised. -/
def State.uninitIn (s : State) (off n : Nat) : Prop :=
  ∃ j < n, s.mem.read (off + j) = none

/-- The next event is the host access `a`, and `rest` come after it. -/
def State.facing (s : State) (a : Access) (rest : List Event) : Prop :=
  s.inputs = .bus a :: rest

/-- The next step is the engine's, and `rest` come after it: the event list is empty, or the engine's turn is its head. -/
def State.engineTurn (s : State) (rest : List Event) : Prop :=
  (s.inputs = [] ∧ rest = []) ∨ s.inputs = .engine :: rest

/-- The block is reset by the next step: a power-on reset, or a write of 1 to `CTRL.SRST` (R250). -/
def State.resetsNext (s : State) : Prop :=
  (∃ rest, s.inputs = .powerOn :: rest) ∨ ∃ v rest, s.facing (.write .w32 0x004 v) rest ∧ v.getLsbD 1 = true

/-- The next step completes the pending command `i`. -/
def State.completesNext (P : Params) (s : State) (i : Instr) : Prop :=
  s.busy = true ∧ (∃ rest, s.engineTurn rest) ∧ decodeWord P s.cmd = .ok i

/-- The step from s to t is the OK completion of an ENCRYPT that produces a keep-alive value, which `ANNOUNCE` then holds
(R28, R181). -/
def State.announcesInto (P : Params) (s t : State) : Prop :=
  ∃ c d, s.completesNext P (.encrypt c d) ∧ t.code = .ok ∧ (s.ctx c).announceEn = true ∧
    t.announce = (shuffle P (s.ctx c).vector).extractLsb' 0 16 ∧ t.announce.toNat % 31 = 0

/-- On every implementation the words of the command are exactly these: its opcode, the `CTX` and `DIR` bits it reads,
bits [31:10] all 0, and every setting of the bits it ignores (R90, R97); and none where the implementation lacks it. -/
def encodedBy (i : Instr) (op : Byte) (ctx dir : Option Bool) : Prop :=
  ∀ (P : Params) (w : Word), decodeWord P w = .ok i ↔
    w.extractLsb' 0 8 = op ∧ w.extractLsb' 10 22 = 0 ∧ (∀ b, ctx = some b → w.getLsbD 8 = b) ∧
      (∀ b, dir = some b → w.getLsbD 9 = b) ∧ (op = 0x0A ∨ op = 0x0B → P.hasShanda = true)

/-- The same state with another staged key. -/
def State.restage (s : State) (lo hi : Word) : State :=
  { s with keyLo := lo, keyHi := hi }

/-- Commands run one after the other, each as `exec` has it. -/
def runInstrs : List Instr → State → Host.Outcome State Fault Refusal
  | [], s => .next s
  | i :: is, s =>
    match exec i s with
    | .next t => runInstrs is t
    | .fault f => .fault f
    | .refused r => .refused r

/-- The first header word as R162 and R163 give it: the version, or its complement, XOR the vector's upper half. -/
def wireH0 (ver : Half) (v : Word) (d : Dir) : Half :=
  (if d = .tc0 then ver else ~~~ver) ^^^ v.extractLsb' 16 16

/-- The four header bytes of a body length (R161, R191). -/
def wireHeader (ver : Half) (v : Word) (L : Half) (d : Dir) : List Byte :=
  [(wireH0 ver v d).extractLsb' 0 8, (wireH0 ver v d).extractLsb' 8 8,
   (wireH0 ver v d ^^^ L).extractLsb' 0 8, (wireH0 ver v d ^^^ L).extractLsb' 8 8]

/-- The chunk offset of a body position (R171, R174). -/
def chunkOffset (p : Nat) : Nat :=
  if p < 1456 then p else (p - 1456) % 1460

/-- `KS_j(v)`: the block transform applied j + 1 times to the tiling (R172). -/
def keyBlock (P : Params) (ek : ExpandedKey) (v : Word) : Nat → Block
  | 0 => P.bt ek (tile v)
  | j + 1 => P.bt ek (keyBlock P ek v j)

/-- The keystream byte of a body position, in the closed form of R174. -/
def keystreamByte (P : Params) (ek : ExpandedKey) (v : Word) (p : Nat) : Byte :=
  (keyBlock P ek v (chunkOffset p / 16))[chunkOffset p % 16]'(Nat.mod_lt _ (by decide))

/-- Byte j of the working key, least significant first (R145). -/
def keyByteAt (K : Word) (j : Nat) : Byte :=
  K.extractLsb' (8 * j) 8

/-- Replace byte j of the working key. -/
def setByte (K : Word) (j : Nat) (b : Byte) : Word :=
  (if j = 3 then b else keyByteAt K 3) ++ ((if j = 2 then b else keyByteAt K 2) ++
    ((if j = 1 then b else keyByteAt K 1) ++ (if j = 0 then b else keyByteAt K 0)))

/-- The shuffle's step in the source's sequential order (R147): each byte is updated in place, from the key as the
updates before it left it, but for key byte 0 in the last one under `PRE`. -/
def sequentialStep (P : Params) (K : Word) (b : Byte) : Word :=
  let K1 := setByte K 0 (keyByteAt K 0 + (P.table (keyByteAt K 1) - b))
  let K2 := setByte K1 1 (keyByteAt K1 1 - (keyByteAt K1 2 ^^^ P.table b))
  let K3 := setByte K2 2 (keyByteAt K2 2 ^^^ (b + P.table (keyByteAt K2 3)))
  let k0 := match P.k3k0 with
    | .pre => keyByteAt K 0
    | .post => keyByteAt K3 0
  (setByte K3 3 (keyByteAt K3 3 - k0 + P.table b)).rotateLeft 3

/-- The `remaining_len` that the index visited as number j of a sub-pass over n bytes sees (R208). -/
def remainingAt (n j : Nat) : Byte :=
  BitVec.ofNat 8 ((n - j) % 256)

/-- The `xor_key` that the index visited as number j sees: 0 at the first, else the t of the index before (R200). -/
def xorKeyAt (t : Nat → Byte) (j : Nat) : Byte :=
  if j = 0 then 0 else t (j - 1)

/-- A `BUF` whose initialised bytes include those of m, with the same values. -/
def Memory.initialises (m' m : Memory) : Prop :=
  ∀ a b, m.read a = some b → m'.read a = some b

end Sys2Proof.Machine
end

