-- ==== Sys2Proof/Certificates/Slice0/Obligations.lean ====
section
/-! DEFINITION. The statements for the provers. B in a docstring is `Config.params.bufBytes`, the default `P_BUF_BYTES`. -/

open Sys2Proof Sys2Proof.Machine

/-! ## Encoding -/

/-- R102: the encoding examples, each word as the spec writes it, read by the decoder and written by the encoder. -/
def Obligations.EncodingExamplesDecode : Prop :=
  encode .nop = 0x00000000 ∧ encode (.ctxInit .ctx1) = 0x00000101 ∧ encode (.setVector .ctx0) = 0x00000002 ∧
  encode (.ivShuffle .ctx1) = 0x00000103 ∧ encode (.hdrBuild .ctx0 .tc1) = 0x00000204 ∧ encode .pktLen = 0x00000005 ∧
  encode (.xform .ctx1) = 0x00000106 ∧ encode (.encrypt .ctx0 .tc0) = 0x00000007 ∧
  encode (.encrypt .ctx1 .tc1) = 0x00000307 ∧ encode (.decrypt .ctx1) = 0x00000108 ∧ encode .hsStrip = 0x00000009 ∧
  encode .shandaEnc = 0x0000000A ∧ encode .shandaDec = 0x0000000B ∧
  decodeTableWord 32 0x00000000 = some .nop ∧
  decodeTableWord 32 0x00000101 = some (.ctxInit .ctx1) ∧
  decodeTableWord 32 0x00000002 = some (.setVector .ctx0) ∧
  decodeTableWord 32 0x00000103 = some (.ivShuffle .ctx1) ∧
  decodeTableWord 32 0x00000204 = some (.hdrBuild .ctx0 .tc1) ∧
  decodeTableWord 32 0x00000005 = some .pktLen ∧
  decodeTableWord 32 0x00000106 = some (.xform .ctx1) ∧
  decodeTableWord 32 0x00000007 = some (.encrypt .ctx0 .tc0) ∧
  decodeTableWord 32 0x00000307 = some (.encrypt .ctx1 .tc1) ∧
  decodeTableWord 32 0x00000108 = some (.decrypt .ctx1) ∧
  decodeTableWord 32 0x00000009 = some .hsStrip ∧
  decodeTableWord 32 0x0000000A = some .shandaEnc ∧
  decodeTableWord 32 0x0000000B = some .shandaDec ∧
  decodeWord Config.params 0x0000000C = .error .illegalOp ∧
  decodeWord Config.params 0x00000407 = .error .reservedBits ∧
  decodeTableWord 32 0x00000305 = some .pktLen

/-- R96, on every implementation: the four decoding steps, the first that applies giving the outcome. -/
def Obligations.DecodingSteps : Prop :=
  ∀ (P : Params) (w : Word),
    let op := (w.extractLsb' 0 8).toNat
    let shandaOp := op = 0x0A ∨ op = 0x0B
    (0x0C ≤ op → decodeWord P w = .error .illegalOp) ∧
    (shandaOp → P.hasShanda = false → decodeWord P w = .error .illegalOp) ∧
    (op < 0x0C → ¬ (shandaOp ∧ P.hasShanda = false) → w.extractLsb' 10 22 ≠ 0 →
      decodeWord P w = .error .reservedBits) ∧
    (op < 0x0C → ¬ (shandaOp ∧ P.hasShanda = false) → w.extractLsb' 10 22 = 0 →
      ∃ i, decodeWord P w = .ok i ∧ i.opcode.toNat = op ∧ (∀ b, i.ctxBit = some b → b = w.getLsbD 8) ∧
        ∀ b, i.dirBit = some b → b = w.getLsbD 9)

/-- On every implementation, decoding the encoding of a well-formed command gives the command back. -/
def Obligations.DecodeEncodeRoundTrip : Prop :=
  ∀ (P : Params) (i : Instr), i.wellFormed P = true → decodeWord P (encode i) = .ok i

/-- On every implementation, a word decodes to a command exactly when the command is available and the word agrees
with its encoding on `OP`, the reserved bits, and the `CTX` and `DIR` bits the command reads: no other word is that
command, and every setting of the ignored bits is. -/
def Obligations.DecodeExactly : Prop :=
  ∀ (P : Params) (w : Word) (i : Instr),
    decodeWord P w = .ok i ↔ i.wellFormed P = true ∧ w &&& i.encodingMask = encode i

/-! ## The step -/

/-- When it is the engine's turn and `CMD` decodes to `i`, the step is `exec i`, with the engine's turn taken off the
event list; and the step after `withFetchWord` runs the table word's command. (Whose turn it is comes from the event
list, the model's choice, log 1.) -/
def Obligations.StepRunsDecodedCommand : Prop :=
  (∀ (s : State) (i : Instr) (rest : List Event), s.busy = true → s.engineTurn rest →
    decodeWord Config.params s.cmd = .ok i → step s = exec i { s with inputs := rest }) ∧
  ∀ (s : State) (nbits w : Nat) (i : Instr), decodeTableWord nbits w = some i →
    step (s.withFetchWord nbits w) = exec i (s.withFetchWord nbits w)

/-- R96: what an accepted command word does at the engine's turn, on every implementation, the first step that applies
giving the outcome: ILLEGAL_OP for a reserved opcode and for a Shanda command the implementation lacks, RESERVED_BITS
for a reserved bit set, both with no other effect, and otherwise the command of the opcode with the word's `CTX` and
`DIR`. The machine is the same on the default configuration. -/
def Obligations.CommandWordOutcomes : Prop :=
  (∀ s : State, step s = stepOn Config.params (execWith Config.params) s) ∧
  ∀ (P : Params) (s : State) (rest : List Event), s.busy = true → s.engineTurn rest →
    let w := s.cmd
    let op := (w.extractLsb' 0 8).toNat
    let absent := (op = 0x0A ∨ op = 0x0B) ∧ P.hasShanda = false
    (0x0C ≤ op ∨ absent → stepOn P (execWith P) s = .next ({ s with inputs := rest }.failed .illegalOp)) ∧
    (op < 0x0C → ¬ absent → w.extractLsb' 10 22 ≠ 0 →
      stepOn P (execWith P) s = .next ({ s with inputs := rest }.failed .reservedBits)) ∧
    (op < 0x0C → ¬ absent → w.extractLsb' 10 22 = 0 →
      ∃ i : Instr, i.opcode.toNat = op ∧ (∀ b, i.ctxBit = some b → b = w.getLsbD 8) ∧
        (∀ b, i.dirBit = some b → b = w.getLsbD 9) ∧
        stepOn P (execWith P) s = execWith P i { s with inputs := rest })

/-- The state after reset meets the block's invariant `State.Inv`, on every implementation. -/
def Obligations.ResetMeetsInvariant : Prop :=
  ∀ P : Params, State.reset.Inv P

/-- Every step keeps the block's invariant: `BUF` canonical and in range, the flags of a pending command, announces
only from OK completions and only of multiples of 31, contexts without key or vector at their reset values, absent
features off. For the machine, and for the same machine on every implementation R5 allows. -/
def Obligations.StepKeepsInvariant : Prop :=
  (∀ s t : State, s.Inv Config.params → step s = .next t → t.Inv Config.params) ∧
  ∀ P : Params, P.valid → ∀ s t : State, s.Inv P → stepOn P (execWith P) s = .next t → t.Inv P

/-- The machine refuses nothing: no state's step is a refusal, so it is a next state or one of the model's faults, of
which one is the model's own (log 8). -/
def Obligations.StepNeverRefuses : Prop :=
  ∀ (s : State) (r : Refusal), step s ≠ .refused r

/-- The pending command completes at the engine's turn, whatever its word: `BUSY` falls, `DONE` rises, `irq` follows
`IRQ_EN`, or the command reads an uninitialised byte. There is no third outcome, and with no event left it is the
engine's turn. (The event list is the model's choice, log 1; an uninitialised byte stops the model as R230 says, log
13.) -/
def Obligations.PendingCommandCompletes : Prop :=
  ∀ (s : State) (rest : List Event), s.busy = true → s.engineTurn rest →
    step s = .fault .uninit ∨
      ∃ t, step s = .next t ∧ t.busy = false ∧ t.done = true ∧ t.irqEn = s.irqEn ∧ t.irq = s.irqEn ∧ t.inputs = rest

/-- R254: with no event and no pending command the block waits. (That this is a step and not a stop is the model's
choice, log 1.) -/
def Obligations.IdleBlockWaits : Prop :=
  ∀ s : State, s.busy = false → s.inputs = [] → step s = .next s

/-! ## Reset -/

/-- R251, R53: a power-on reset sets every register, flag and context field to its reset value and every `BUF` byte
uninitialised. (That the events to come and the last read data stay is the model's choice, log 14.) -/
def Obligations.PowerOnReset : Prop :=
  (∀ (s : State) (rest : List Event), s.inputs = .powerOn :: rest →
    step s = .next { State.reset with inputs := rest, readData := s.readData }) ∧
  (∀ off, off < 0x100 → State.reset.readRegAt off = if off = 0 then 0x49560001 else 0) ∧
  State.reset.keyLo = 0 ∧ State.reset.keyHi = 0 ∧ State.reset.busy = false ∧ State.reset.irq = false ∧
  (∀ c, (State.reset.ctx c).keyed = false ∧ (State.reset.ctx c).handshaken = false ∧
    (State.reset.ctx c).vector = 0 ∧ (State.reset.ctx c).version = 0 ∧ (State.reset.ctx c).shandaEn = false ∧
    (State.reset.ctx c).announceEn = false ∧ ∀ (j : Nat) (h : j < 32), (State.reset.ctx c).ek[j] = 0) ∧
  ∀ a, State.reset.mem.read a = none

/-- R252: a write of 1 to `CTRL.SRST`, busy or not and whatever bit 0 holds, sets every register, flag and context
field to its reset value, aborts the pending command, and keeps `BUF` but for the bytes the pending command would
write, which become uninitialised (which bytes those are where a source byte is uninitialised is the model's choice,
log 6, and so is that the events to come and the last read data stay, log 14). -/
def Obligations.SoftReset : Prop :=
  ∀ (s : State) (v : Word) (rest : List Event), s.facing (.write .w32 0x004 v) rest → v.getLsbD 1 = true →
    ∃ t, step s = .next t ∧
      t = { State.reset with mem := t.mem, inputs := rest, readData := s.readData } ∧
      (∀ a, ¬ inRange s.dst.toNat (pendingDestLen Config.params s) a → t.mem.read a = s.mem.read a) ∧
      (∀ a, inRange s.dst.toNat (pendingDestLen Config.params s) a → t.mem.read a = none) ∧
      (s.busy = false → t.mem = s.mem)

/-- R252 item 3: the bytes a soft reset takes from a pending command are those of the command `CMD` decodes to, none
where it decodes to no command and none where no command is pending. They are the ones its completion would have
written: a command that ends OK initialises all of them and no other byte changes, and one that ends otherwise has
none. -/
def Obligations.AbortRangeIsWrittenRange : Prop :=
  (∀ (s : State) (i : Instr), s.busy = true → decodeWord Config.params s.cmd = .ok i →
    pendingDestLen Config.params s = destLen Config.params s i) ∧
  (∀ (s : State) (e : DecodeError), s.busy = true → decodeWord Config.params s.cmd = .error e →
    pendingDestLen Config.params s = 0) ∧
  (∀ s : State, s.busy = false → pendingDestLen Config.params s = 0) ∧
  ∀ (i : Instr) (s t : State), exec i s = .next t →
    (t.code = .ok → ∀ a,
      (inRange s.dst.toNat (destLen Config.params s i) a → (t.mem.read a).isSome = true) ∧
      (¬ inRange s.dst.toNat (destLen Config.params s i) a → t.mem.read a = s.mem.read a)) ∧
    (t.code ≠ .ok → destLen Config.params s i = 0 ∧ t.mem = s.mem)

/-! ## Registers and the bus -/

/-- R69, R231: a read of the register file at any aligned offset, reserved ones included, answers the register's value
and changes nothing of the block. R23, R36, R37: `ID`, `RESULT` and `ANNOUNCE` read their constant, the last result,
and the keep-alive value with bits [31:16] 0. (The field that takes the data is the model's own, log 2.) -/
def Obligations.RegisterReadsHaveNoEffect : Prop :=
  (∀ (s : State) (off : Nat) (rest : List Event), off < 0x100 → off % 4 = 0 → s.facing (.read .w32 off) rest →
    step s = .next { s with inputs := rest, readData := some (s.readRegAt off) }) ∧
  ∀ s : State,
    s.readRegAt 0x000 = 0x49560001 ∧ s.readRegAt 0x020 = s.result ∧
    (s.readRegAt 0x024).extractLsb' 0 16 = s.announce ∧ (s.readRegAt 0x024).extractLsb' 16 16 = 0

/-- R24: `irq` follows `DONE` while `IRQ_EN` is 1; `CTRL` as read, and as written without `SRST`, busy or not; and
with `SRST` the state after is a reset one. -/
def Obligations.CtrlRegister : Prop :=
  ∀ s : State,
    ((s.readRegAt 0x004).getLsbD 0 = s.irqEn ∧ ∀ k, 0 < k → (s.readRegAt 0x004).getLsbD k = false) ∧
    State.reset.readRegAt 0x004 = 0 ∧ (s.irqEn = true → s.irq = s.done) ∧ (s.irqEn = false → s.irq = false) ∧
    ∀ (v : Word) (rest : List Event), s.facing (.write .w32 0x004 v) rest →
      (v.getLsbD 1 = false → step s = .next { s with inputs := rest, irqEn := v.getLsbD 0 }) ∧
      (v.getLsbD 1 = true → step s = .next (softReset Config.params { s with inputs := rest }))

/-- R25: the fields of `STATUS` as read, with the completion codes of R221 in `CODE`, its reset value, and a write,
which acts on the W1C fields alone. -/
def Obligations.StatusRegister : Prop :=
  (Code.ok.toByte = 0x00 ∧ Code.notReady.toByte = 0x01 ∧ Code.illegalOp.toByte = 0x02 ∧
    Code.reservedBits.toByte = 0x03 ∧ Code.lenRange.toByte = 0x04 ∧ Code.short.toByte = 0x05 ∧
    Code.range.toByte = 0x06) ∧
  ∀ s : State,
    (s.readRegAt 0x008).getLsbD 0 = s.busy ∧ (s.readRegAt 0x008).getLsbD 1 = s.done ∧
    (s.readRegAt 0x008).getLsbD 2 = s.annValid ∧ (s.readRegAt 0x008).getLsbD 3 = s.wdrop ∧
    (s.readRegAt 0x008).extractLsb' 4 4 = 0 ∧ (s.readRegAt 0x008).extractLsb' 8 8 = s.code.toByte ∧
    (s.readRegAt 0x008).extractLsb' 16 16 = 0 ∧ State.reset.readRegAt 0x008 = 0 ∧
    ∀ (v : Word) (rest : List Event), s.facing (.write .w32 0x008 v) rest →
      step s = .next { s with
        inputs := rest, done := s.done && !v.getLsbD 1, wdrop := s.wdrop && !v.getLsbD 3 }

/-- R31: a `CMD` write is accepted when the engine is idle and dropped when it is busy; a read returns the last
accepted word. -/
def Obligations.CommandAcceptance : Prop :=
  ∀ (s : State) (w : Word) (rest : List Event), s.facing (.write .w32 0x00C w) rest →
    s.readRegAt 0x00C = s.cmd ∧
    (s.busy = false → step s = .next { s with
      inputs := rest, cmd := w, busy := true, done := false, annValid := false }) ∧
    (s.busy = true → step s = .next { s with inputs := rest, wdrop := true })

/-- R29: while busy, a write of the named registers has no effect but `WDROP` <- 1, and `WDROP` falls only by a write
of 1 to `STATUS` bit 3 or by a reset. -/
def Obligations.BusyWritesAreDropped : Prop :=
  (∀ (s : State) (off : Nat) (v : Word) (rest : List Event), s.busy = true →
    off ∈ [0x00C, 0x010, 0x014, 0x018, 0x01C, 0x028, 0x02C, 0x030, 0x044, 0x064] →
    s.facing (.write .w32 off v) rest → step s = .next { s with inputs := rest, wdrop := true }) ∧
  ∀ s t : State, s.wdrop = true → step s = .next t → t.wdrop = true ∨ s.resetsNext ∨
    ∃ v rest, s.facing (.write .w32 0x008 v) rest ∧ v.getLsbD 3 = true

/-- R32, R33, R35, R38, R39 and `LEN` of R34: while idle, a write of an operand or staging register stores all its
bits (`VERSION`: bits [15:0]) and nothing else; the key registers read 0, the others what they hold. -/
def Obligations.OperandRegisters : Prop :=
  ∀ (s : State) (v : Word) (rest : List Event), s.busy = false →
    (s.facing (.write .w32 0x010 v) rest → step s = .next { s with inputs := rest, src := v }) ∧
    (s.facing (.write .w32 0x014 v) rest → step s = .next { s with inputs := rest, dst := v }) ∧
    (s.facing (.write .w32 0x018 v) rest → step s = .next { s with inputs := rest, len := v }) ∧
    (s.facing (.write .w32 0x01C v) rest → step s = .next { s with inputs := rest, value := v }) ∧
    (s.facing (.write .w32 0x028 v) rest → step s = .next { s with inputs := rest, keyLo := v }) ∧
    (s.facing (.write .w32 0x02C v) rest → step s = .next { s with inputs := rest, keyHi := v }) ∧
    (s.facing (.write .w32 0x030 v) rest →
      step s = .next { s with inputs := rest, version := v.extractLsb' 0 16 }) ∧
    s.readRegAt 0x010 = s.src ∧ s.readRegAt 0x014 = s.dst ∧ s.readRegAt 0x018 = s.len ∧
    s.readRegAt 0x01C = s.value ∧ s.readRegAt 0x028 = 0 ∧ s.readRegAt 0x02C = 0 ∧
    (s.readRegAt 0x030).toNat = s.version.toNat

/-- R22, R23, R36, R37, R40, R42, R43: writes to read-only registers and to reserved offsets are ignored, busy or not.
-/
def Obligations.ReadOnlyAndReservedIgnoreWrites : Prop :=
  ∀ (s : State) (off : Nat) (v : Word) (rest : List Event), off < 0x100 → off % 4 = 0 →
    off ∉ [0x004, 0x008, 0x00C, 0x010, 0x014, 0x018, 0x01C, 0x028, 0x02C, 0x030, 0x044, 0x064] →
    s.facing (.write .w32 off v) rest → step s = .next { s with inputs := rest }

/-- R40 to R43: what a context's four registers read as, and that reserved offsets read 0. -/
def Obligations.ContextRegistersRead : Prop :=
  ∀ (s : State) (c : CtxId),
    let base := if c = .ctx0 then 0x040 else 0x060
    (s.readRegAt base).toNat = (s.ctx c).keyed.toNat + 2 * (s.ctx c).handshaken.toNat ∧
    (s.readRegAt (base + 0x4)).toNat = (s.ctx c).shandaEn.toNat + 2 * (s.ctx c).announceEn.toNat ∧
    (s.readRegAt (base + 0x8)).toNat = (s.ctx c).version.toNat ∧
    s.readRegAt (base + 0xC) = (if (s.ctx c).handshaken = true then (s.ctx c).vector else 0) ∧
    (∀ off, 0x034 ≤ off → off < 0x040 → s.readRegAt off = 0) ∧
    (∀ off, 0x050 ≤ off → off < 0x060 → s.readRegAt off = 0) ∧
    ∀ off, 0x070 ≤ off → s.readRegAt off = 0

/-- R41, D22: an idle block's `CTXn_CFG` takes bits 0 and 1, each hardwired to 0 where the implementation lacks its
feature, and nothing else changes. On every implementation. -/
def Obligations.ConfigRegister : Prop :=
  ∀ (P : Params) (s : State) (c : CtxId) (v : Word) (rest : List Event), s.busy = false →
    s.facing (.write .w32 (if c = .ctx0 then 0x044 else 0x064) v) rest →
    ∃ t, stepOn P (execWith P) s = .next t ∧
      t = { s with inputs := rest, ctx0 := t.ctx0, ctx1 := t.ctx1 } ∧ s.otherCtxKept t c ∧
      t.ctx c = { s.ctx c with
        shandaEn := v.getLsbD 0 && P.hasShanda, announceEn := v.getLsbD 1 && P.hasAnnounce }

/-- R61, R62: a register access that is not an aligned 32-bit one, and every access to the hole between the register
file and `BUF`, is a bus error, which the model reports as `F_BUS`. -/
def Obligations.BadRegisterAccessIsBusError : Prop :=
  ∀ (s : State) (a : Access) (rest : List Event), s.facing a rest →
    ((accessOffset a < 0x100 ∧ (accessWidth a ≠ .w32 ∨ accessOffset a % 4 ≠ 0)) ∨
      (0x100 ≤ accessOffset a ∧ accessOffset a < Config.params.bufBytes)) →
    step s = .fault .bus

/-- R63: on an idle block, a `BUF` access that is admitted by its width and alignment writes or reads its bytes
little-endian (one that reads an uninitialised byte is `F_UNINIT`, R65), and any other is a bus error. (Where the data
of a narrow access stands in the bus word is the model's choice, log 9.) -/
def Obligations.BufAccess : Prop :=
  ∀ (s : State) (w : Width) (k : Nat) (v : Word) (rest : List Event),
    s.busy = false → k < Config.params.bufBytes →
    let off := Config.params.bufBytes + k
    let n := if w = .w8 then 1 else if w = .w16 then 2 else 4
    let admitted := w = .w8 ∨ (w = .w16 ∧ k % 2 = 0) ∨ (w = .w32 ∧ k % 4 = 0)
    (s.facing (.write w off v) rest → admitted → ∃ t, step s = .next t ∧
      t = { s with inputs := rest, mem := t.mem } ∧ s.wrote t k ((bytes32 v).take n)) ∧
    (s.facing (.read w off) rest → admitted → ∀ bs : List Byte, bs.length = n → s.holds k bs →
      ∃ d, step s = .next { s with inputs := rest, readData := some d } ∧ (bytes32 d).take n = bs ∧
        (bytes32 d).drop n = List.replicate (4 - n) 0) ∧
    (s.facing (.read w off) rest → admitted → s.uninitIn k n → step s = .fault .uninit) ∧
    (¬ admitted → s.facing (.write w off v) rest ∨ s.facing (.read w off) rest → step s = .fault .bus)

/-- R259: a host access to `BUF` while busy is `F_HAZARD`, whatever the pending command's ranges are. (An access R63
rejects is `F_BUS` first: the model's reading, log 5. A read of an uninitialised byte is `F_HAZARD` and not
`F_UNINIT`: the model's choice, log 15.) -/
def Obligations.BufWhileBusyIsHazard : Prop :=
  ∀ (s : State) (a : Access) (rest : List Event), s.busy = true → s.facing a rest →
    Config.params.bufBytes ≤ accessOffset a → accessOffset a < 2 * Config.params.bufBytes →
    bufAccessOk (accessWidth a) (accessOffset a - Config.params.bufBytes) = true → step s = .fault .hazard

/-- R260, R258: while a command is pending, no host access but a soft reset changes what the command reads or that it
is pending. (The read data is the model's own field, log 2.) -/
def Obligations.OperandsHeldWhilePending : Prop :=
  ∀ (s t : State) (a : Access) (rest : List Event), s.busy = true → s.facing a rest → ¬ s.resetsNext →
    step s = .next t →
    t.busy = true ∧ t.cmd = s.cmd ∧ t.src = s.src ∧ t.dst = s.dst ∧ t.len = s.len ∧ t.value = s.value ∧
    t.keyLo = s.keyLo ∧ t.keyHi = s.keyHi ∧ t.version = s.version ∧ t.ctx0 = s.ctx0 ∧ t.ctx1 = s.ctx1 ∧
    t.mem = s.mem ∧ t.result = s.result ∧ t.announce = s.announce ∧ t.code = s.code

/-- R49, R50: no host access observes a key. Two blocks that differ only in the staged key and the expanded keys
answer every host access alike: the same fault, or the same data and `irq` and blocks that again differ only in keys.
-/
def Obligations.KeysAreUnreadable : Prop :=
  ∀ (s t : State) (a : Access) (rest : List Event), s.sameButKeys t → s.facing a rest →
    (∃ f, step s = .fault f ∧ step t = .fault f) ∨
      ∃ s' t', step s = .next s' ∧ step t = .next t' ∧ s'.sameButKeys t' ∧ s'.readData = t'.readData ∧ s'.irq = t'.irq

/-- R27: `DONE` falls when a command is accepted and rises when it completes, whatever its code; a write of 1 to
`STATUS` bit 1 clears it and a write of 0 does not; `irq` is asserted exactly when `DONE` and `IRQ_EN` are 1. -/
def Obligations.DoneFlagLifeCycle : Prop :=
  (∀ (s : State) (w : Word) (rest : List Event), s.busy = false → s.facing (.write .w32 0x00C w) rest →
    ∃ t, step s = .next t ∧ t.done = false) ∧
  (∀ (s t : State) (rest : List Event), s.busy = true → s.engineTurn rest → step s = .next t → t.done = true) ∧
  (∀ (s : State) (v : Word) (rest : List Event), s.facing (.write .w32 0x008 v) rest →
    ∃ t, step s = .next t ∧ t.done = if v.getLsbD 1 = true then false else s.done) ∧
  ∀ s : State, s.irq = true ↔ s.done = true ∧ s.irqEn = true

/-- R28: `ANN_VALID` falls when a command is accepted, and rises only at the OK completion of an ENCRYPT that produces
a keep-alive value, which `ANNOUNCE` then holds. For the machine, and for the same machine on every implementation. -/
def Obligations.AnnounceOnlyByEncrypt : Prop :=
  (∀ (s : State) (w : Word) (rest : List Event), s.busy = false → s.facing (.write .w32 0x00C w) rest →
    ∃ t, step s = .next t ∧ t.annValid = false) ∧
  (∀ s t : State, step s = .next t → s.annValid = false → t.annValid = true → s.announcesInto Config.params t) ∧
  ∀ (P : Params) (s t : State), stepOn P (execWith P) s = .next t → s.annValid = false → t.annValid = true →
    s.announcesInto P t

/-! ## Control -/

/-- R120: NOP, in its encoding, ends OK with `RESULT` 0, changes nothing else, and raises `irq` if it is enabled. -/
def Obligations.NopCompletes : Prop :=
  encodedBy .nop 0x00 none none ∧ ∀ s : State, ∃ t, exec .nop s = .next t ∧
    t = { s with code := .ok, result := 0, busy := false, done := true, annValid := false } ∧ t.irq = s.irqEn

/-- R121: the 32 bytes of the expanded key, and the rule's example. -/
def Obligations.ExpandedKeyBytes : Prop :=
  (∀ (K : BitVec 64) (j : Nat) (h : j < 32),
    (expandKey K)[j] = if j % 4 = 0 then K.extractLsb' (56 - 2 * j) 8 else 0) ∧
  expandKey 0x130806B41B0F3352 =
    #v[0x13, 0, 0, 0, 0x08, 0, 0, 0, 0x06, 0, 0, 0, 0xB4, 0, 0, 0, 0x1B, 0, 0, 0, 0x0F, 0, 0, 0, 0x33, 0, 0, 0,
       0x52, 0, 0, 0]

/-- R122: CTX_INIT, in its encoding, keys the context from the staged key and version, clears its vector and
`HANDSHAKEN`, keeps its configuration, and touches neither the other context, nor `BUF`, nor the staged values. -/
def Obligations.CtxInitCompletes : Prop :=
  ∀ c : CtxId, encodedBy (.ctxInit c) 0x01 (some c.bit) none ∧ ∀ s : State,
    ∃ t, exec (.ctxInit c) s = .next t ∧ s.okFrame t 0 ∧ t.mem = s.mem ∧ s.otherCtxKept t c ∧
    t.ctx c = { s.ctx c with
      ek := expandKey (s.keyHi ++ s.keyLo), version := s.version, keyed := true, handshaken := false, vector := 0 }

/-- R123: a context's expanded key changes only by CTX_INIT on it, to the expansion of the staged key, and by reset;
and no command but CTX_INIT reads the staged key: with another key staged it ends the same way, with that key still
staged. -/
def Obligations.KeyChangesOnlyByCtxInit : Prop :=
  (∀ (s t : State) (c : CtxId), step s = .next t →
    (t.ctx c).ek = (s.ctx c).ek ∨
    (s.completesNext Config.params (.ctxInit c) ∧ (t.ctx c).ek = expandKey (s.keyHi ++ s.keyLo)) ∨
    (s.resetsNext ∧ ∀ (j : Nat) (h : j < 32), (t.ctx c).ek[j] = 0)) ∧
  ∀ (i : Instr) (s : State) (lo hi : Word), (∀ c, i ≠ .ctxInit c) →
    (∀ t, exec i s = .next t → exec i (s.restage lo hi) = .next (t.restage lo hi)) ∧
    ∀ f, exec i s = .fault f → exec i (s.restage lo hi) = .fault f

/-! ## The IV engine -/

/-- R141: SET_VECTOR, in its encoding, installs `VALUE` and sets `HANDSHAKEN`, keyed or not, handshaken or not. -/
def Obligations.SetVectorCompletes : Prop :=
  ∀ c : CtxId, encodedBy (.setVector c) 0x02 (some c.bit) none ∧ ∀ s : State,
    ∃ t, exec (.setVector c) s = .next t ∧ s.okFrame t s.value ∧ t.mem = s.mem ∧ s.otherCtxKept t c ∧
    t.ctx c = { s.ctx c with vector := s.value, handshaken := true }

/-- R142: IV_SHUFFLE, in its encoding, ends NOT_READY without a vector, and otherwise replaces the vector by its
shuffle, which is `RESULT`. -/
def Obligations.IvShuffleCompletes : Prop :=
  ∀ c : CtxId, encodedBy (.ivShuffle c) 0x03 (some c.bit) none ∧ ∀ s : State,
    ((s.ctx c).handshaken = false → exec (.ivShuffle c) s = .next (s.failed .notReady)) ∧
    ((s.ctx c).handshaken = true → ∃ t, exec (.ivShuffle c) s = .next t ∧
      s.okFrame t (shuffle Config.params (s.ctx c).vector) ∧ t.mem = s.mem ∧ s.otherCtxKept t c ∧
      t.ctx c = { s.ctx c with vector := shuffle Config.params (s.ctx c).vector })

/-- R146, R147: the shuffle is four steps from `P_SHUFFLE_SEED`, over bytes 0 to 3 of its input in order. Each step is
the source's sequential order, with the start-of-step byte 0 in the last update under `PRE` and the updated one under
`POST`. -/
def Obligations.ShuffleStepIsSequential : Prop :=
  (∀ (P : Params) (K : Word) (b : Byte), shuffleStep P K b = sequentialStep P K b) ∧
  ∀ (P : Params) (v : Word),
    shuffle P v =
      sequentialStep P (sequentialStep P (sequentialStep P (sequentialStep P P.seed (v.extractLsb' 0 8))
        (v.extractLsb' 8 8)) (v.extractLsb' 16 8)) (v.extractLsb' 24 8)

/-- 95_test_vectors.md 2.4, test instance TI (identity table, seed 0), by R146 under `PRE` and `POST`; R149's fixed
point among them. -/
def Obligations.ShuffleTestVectors : Prop :=
  ∀ P : Params, (∀ b, P.table b = b) → P.seed = 0 →
    shuffle P 0 = 0 ∧
    (P.k3k0 = .pre → shuffle P 0x12345678 = 0xC67CC07C ∧ shuffle P 0x00000001 = 0x3DFA39FA ∧
      shuffle P 0xDEADBEEF = 0xEF19396E) ∧
    (P.k3k0 = .post → shuffle P 0x12345678 = 0x3D570803 ∧ shuffle P 0x80000000 = 0x04040400)

/-- R46: a vector changes only by SET_VECTOR, by the shuffle of the four commands that shuffle, by CTX_INIT and by
reset. -/
def Obligations.VectorChangesFourWays : Prop :=
  ∀ (s t : State) (c : CtxId), step s = .next t →
    (t.ctx c).vector = (s.ctx c).vector ∨
    (s.completesNext Config.params (.setVector c) ∧ (t.ctx c).vector = s.value) ∨
    ((s.completesNext Config.params (.ivShuffle c) ∨ s.completesNext Config.params (.xform c) ∨
        (∃ d, s.completesNext Config.params (.encrypt c d)) ∨ s.completesNext Config.params (.decrypt c)) ∧
      (t.ctx c).vector = shuffle Config.params (s.ctx c).vector) ∨
    (s.completesNext Config.params (.ctxInit c) ∧ (t.ctx c).vector = 0) ∨
    (s.resetsNext ∧ (t.ctx c).vector = 0)

/-- R150: exactly the four shuffling commands shuffle, once, and only when they end OK. SET_VECTOR and CTX_INIT put
their own value, and every other command keeps the vector. -/
def Obligations.ShuffleOncePerOkCommand : Prop :=
  ∀ (i : Instr) (s t : State) (c : CtxId), exec i s = .next t →
    ((i = .ivShuffle c ∨ i = .xform c ∨ (∃ d, i = .encrypt c d) ∨ i = .decrypt c) → t.code = .ok →
      (t.ctx c).vector = shuffle Config.params (s.ctx c).vector) ∧
    (t.code ≠ .ok → (t.ctx c).vector = (s.ctx c).vector) ∧
    (¬ (i = .ivShuffle c ∨ i = .xform c ∨ (∃ d, i = .encrypt c d) ∨ i = .decrypt c) →
      i ≠ .setVector c → i ≠ .ctxInit c → (t.ctx c).vector = (s.ctx c).vector) ∧
    (i = .setVector c → (t.ctx c).vector = s.value) ∧ (i = .ctxInit c → (t.ctx c).vector = 0)

/-- R151: two contexts with the same vector, shuffled n times each, have the same vector, the n-fold shuffle. -/
def Obligations.LockstepShuffles : Prop :=
  ∀ (n : Nat) (s : State), s.ctx0.handshaken = true → s.ctx1.handshaken = true → s.ctx0.vector = s.ctx1.vector →
    ∃ t, runInstrs (List.replicate n (.ivShuffle .ctx0) ++ List.replicate n (.ivShuffle .ctx1)) s = .next t ∧
      t.ctx0.vector = t.ctx1.vector ∧ t.ctx0.vector = (shuffle Config.params)^[n] s.ctx0.vector

/-! ## The cipher wrapper -/

/-- R165: `packet_length` of a header gives the body length back, for every version, vector and direction. -/
def Obligations.PacketLengthInvertsHeader : Prop :=
  ∀ (ver : Half) (v : Word) (L : Half) (d : Dir), packetLength (headerBytes (header ver v L d)) = L

/-- R166: HDR_BUILD's encoding, its checks in order, the header it writes at `DST`, and that nothing else changes. -/
def Obligations.HdrBuildCompletes : Prop :=
  ∀ (c : CtxId) (d : Dir), encodedBy (.hdrBuild c d) 0x04 (some c.bit) (some d.bit) ∧ ∀ s : State,
    let h0 := wireH0 (s.ctx c).version (s.ctx c).vector d
    let L := s.len.extractLsb' 0 16
    ((s.ctx c).handshaken = false → exec (.hdrBuild c d) s = .next (s.failed .notReady)) ∧
    ((s.ctx c).handshaken = true → 0xFFFF < s.len.toNat → exec (.hdrBuild c d) s = .next (s.failed .lenRange)) ∧
    ((s.ctx c).handshaken = true → s.len.toNat ≤ 0xFFFF → Config.params.bufBytes < s.dst.toNat + 4 →
      exec (.hdrBuild c d) s = .next (s.failed .range)) ∧
    ((s.ctx c).handshaken = true → s.len.toNat ≤ 0xFFFF → s.dst.toNat + 4 ≤ Config.params.bufBytes →
      ∃ t, exec (.hdrBuild c d) s = .next t ∧ s.okFrame t ((h0 ^^^ L) ++ h0) ∧ t.ctx0 = s.ctx0 ∧ t.ctx1 = s.ctx1 ∧
        s.wrote t s.dst.toNat (wireHeader (s.ctx c).version (s.ctx c).vector L d))

/-- R167: PKT_LEN's encoding, its check, and the XOR of the two header words at `SRC` as `RESULT`. -/
def Obligations.PktLenCompletes : Prop :=
  encodedBy .pktLen 0x05 none none ∧ ∀ s : State,
    (Config.params.bufBytes < s.src.toNat + 4 → exec .pktLen s = .next (s.failed .range)) ∧
    (s.src.toNat + 4 ≤ Config.params.bufBytes → ∀ b0 b1 b2 b3 : Byte, s.holds s.src.toNat [b0, b1, b2, b3] →
      exec .pktLen s = .next { s with
        code := .ok, result := ((b1 ++ b0) ^^^ (b3 ++ b2) : Half).setWidth 32, busy := false, done := true
        annValid := false })

/-- R174: the transform in closed form, on every implementation: each byte is XORed with the keystream byte of its
position, and the length is kept. The working IV it starts from is the tiling W0(v) of R170: byte j is byte j mod 4 of
the vector. -/
def Obligations.XformClosedForm : Prop :=
  (∀ (v : Word) (j : Nat) (h : j < 16), (tile v)[j] = v.extractLsb' (8 * (j % 4)) 8) ∧
  ∀ (P : Params) (ek : ExpandedKey) (v : Word) (data : List Byte),
    (xform P ek v data).length = data.length ∧
    ∀ (p : Nat) (h : p < data.length), (xform P ek v data)[p]? = some (data[p] ^^^ keystreamByte P ek v p)

/-- R175: the transform is self-inverse, for every block transform. -/
def Obligations.XformSelfInverse : Prop :=
  ∀ (P : Params) (ek : ExpandedKey) (v : Word) (d : List Byte), xform P ek v (xform P ek v d) = d

/-- R176: the keystream of a packet depends on the position alone, not on the data, and repeats from chunk to chunk.
-/
def Obligations.KeystreamByPositionAlone : Prop :=
  ∀ (P : Params) (ek : ExpandedKey) (v : Word),
    (∀ (d d' : List Byte) (p : Nat), p < d.length → p < d'.length →
      byteAt (xform P ek v d) p ^^^ byteAt d p = byteAt (xform P ek v d') p ^^^ byteAt d' p) ∧
    ∀ (d : List Byte) (p q : Nat), p < d.length → q < d.length →
      (p < 1456 ∧ q = p + 1456 ∨ 1456 ≤ p ∧ q = p + 1460) →
      byteAt (xform P ek v d) p ^^^ byteAt d p = byteAt (xform P ek v d) q ^^^ byteAt d q

/-- R177: XFORM's encoding, its checks in order, and on OK the transform of the `LEN` bytes at `SRC` at `DST`, and one
shuffle. -/
def Obligations.XformCompletes : Prop :=
  ∀ c : CtxId, encodedBy (.xform c) 0x06 (some c.bit) none ∧ ∀ s : State,
    let n := s.len.toNat
    (¬ s.ready c → exec (.xform c) s = .next (s.failed .notReady)) ∧
    (s.ready c → Config.params.bufBytes < s.src.toNat + n ∨ Config.params.bufBytes < s.dst.toNat + n →
      exec (.xform c) s = .next (s.failed .range)) ∧
    (s.ready c → s.src.toNat + n ≤ Config.params.bufBytes → s.dst.toNat + n ≤ Config.params.bufBytes →
      ∀ body : List Byte, body.length = n → s.holds s.src.toNat body →
      ∃ t, exec (.xform c) s = .next t ∧ s.okFrame t s.len ∧ s.otherCtxKept t c ∧
        t.ctx c = { s.ctx c with vector := shuffle Config.params (s.ctx c).vector } ∧
        s.wrote t s.dst.toNat (xform Config.params (s.ctx c).ek (s.ctx c).vector body))

/-- R180, R181, R182: ENCRYPT's encoding, its checks in order, and on OK the frame at `DST` (the header, then the
transform of the body, through the Shanda pass where enabled, all under the vector before the shuffle), one shuffle,
and the announce of the shuffled vector. -/
def Obligations.EncryptCompletes : Prop :=
  ∀ (c : CtxId) (d : Dir), encodedBy (.encrypt c d) 0x07 (some c.bit) (some d.bit) ∧ ∀ s : State,
    let n := s.len.toNat
    let k := s.ctx c
    let v' := shuffle Config.params k.vector
    let ann := k.announceEn && decide ((v'.extractLsb' 0 16).toNat % 31 = 0)
    (¬ s.ready c → exec (.encrypt c d) s = .next (s.failed .notReady)) ∧
    (s.ready c → 0xFFFF < n → exec (.encrypt c d) s = .next (s.failed .lenRange)) ∧
    (s.ready c → n ≤ 0xFFFF → Config.params.bufBytes < s.src.toNat + n ∨ Config.params.bufBytes < s.dst.toNat + 4 + n →
      exec (.encrypt c d) s = .next (s.failed .range)) ∧
    (s.ready c → n ≤ 0xFFFF → s.src.toNat + n ≤ Config.params.bufBytes →
      s.dst.toNat + 4 + n ≤ Config.params.bufBytes →
      ∀ body : List Byte, body.length = n → s.holds s.src.toNat body →
      ∃ t, exec (.encrypt c d) s = .next t ∧
        t = { s with
          code := .ok, result := BitVec.ofNat 32 (4 + n), busy := false, done := true, annValid := ann
          announce := if ann = true then v'.extractLsb' 0 16 else s.announce
          ctx0 := t.ctx0, ctx1 := t.ctx1, mem := t.mem } ∧
        s.otherCtxKept t c ∧ t.ctx c = { k with vector := v' } ∧
        s.wrote t s.dst.toNat (wireHeader k.version k.vector (BitVec.ofNat 16 n) d ++
          xform Config.params k.ek k.vector (if k.shandaEn = true then shandaEnc body else body)))

/-- R185, R187: DECRYPT's encoding, its checks in order, the header read before the last two, and on OK the plaintext
at `DST` (the transform of the body, then the Shanda pass where enabled), whatever the header's first word is, and one
shuffle. -/
def Obligations.DecryptCompletes : Prop :=
  ∀ c : CtxId, encodedBy (.decrypt c) 0x08 (some c.bit) none ∧ ∀ s : State,
    let n := s.len.toNat
    let k := s.ctx c
    (¬ s.ready c → exec (.decrypt c) s = .next (s.failed .notReady)) ∧
    (s.ready c → n < 4 → exec (.decrypt c) s = .next (s.failed .short)) ∧
    (s.ready c → 4 ≤ n → Config.params.bufBytes < s.src.toNat + n →
      exec (.decrypt c) s = .next (s.failed .range)) ∧
    (s.ready c → 4 ≤ n → s.src.toNat + n ≤ Config.params.bufBytes →
      ∀ b0 b1 b2 b3 : Byte, s.holds s.src.toNat [b0, b1, b2, b3] →
      let m := ((b1 ++ b0) ^^^ (b3 ++ b2) : Half).toNat
      (n < 4 + m → exec (.decrypt c) s = .next (s.failed .short)) ∧
      (4 + m ≤ n → Config.params.bufBytes < s.dst.toNat + m → exec (.decrypt c) s = .next (s.failed .range)) ∧
      (4 + m ≤ n → s.dst.toNat + m ≤ Config.params.bufBytes →
        ∀ body : List Byte, body.length = m → s.holds (s.src.toNat + 4) body →
        ∃ t, exec (.decrypt c) s = .next t ∧ s.okFrame t (BitVec.ofNat 32 m) ∧ s.otherCtxKept t c ∧
          t.ctx c = { k with vector := shuffle Config.params k.vector } ∧
          s.wrote t s.dst.toNat (if k.shandaEn = true then shandaDec (xform Config.params k.ek k.vector body)
            else xform Config.params k.ek k.vector body)))

/-- R190: HS_STRIP's encoding, its checks in order, the prefix read before the last two, and on OK the bytes after the
prefix at `DST`; no context changes. -/
def Obligations.HsStripCompletes : Prop :=
  encodedBy .hsStrip 0x09 none none ∧ ∀ s : State,
    let n := s.len.toNat
    (n < 2 → exec .hsStrip s = .next (s.failed .short)) ∧
    (2 ≤ n → Config.params.bufBytes < s.src.toNat + n → exec .hsStrip s = .next (s.failed .range)) ∧
    (2 ≤ n → s.src.toNat + n ≤ Config.params.bufBytes → ∀ b0 b1 : Byte, s.holds s.src.toNat [b0, b1] →
      let m := (b1 ++ b0 : Half).toNat
      (n < 2 + m → exec .hsStrip s = .next (s.failed .short)) ∧
      (2 + m ≤ n → Config.params.bufBytes < s.dst.toNat + m → exec .hsStrip s = .next (s.failed .range)) ∧
      (2 + m ≤ n → s.dst.toNat + m ≤ Config.params.bufBytes →
        ∀ body : List Byte, body.length = m → s.holds (s.src.toNat + 2) body →
        ∃ t, exec .hsStrip s = .next t ∧ s.okFrame t (BitVec.ofNat 32 m) ∧ t.ctx0 = s.ctx0 ∧ t.ctx1 = s.ctx1 ∧
          s.wrote t s.dst.toNat body))

/-- R194: ENCRYPT on one context and DECRYPT of its frame on the other, with the same key, vector and Shanda setting,
give the body back wherever it is put, with its length as `RESULT`, and leave both vectors at the shuffle of the
first; the versions may differ. -/
def Obligations.EncryptDecryptRoundTrip : Prop :=
  ∀ (a b : CtxId) (d : Dir) (s : State) (body : List Byte) (x : Word), a ≠ b →
    s.ready a → s.ready b → (s.ctx a).ek = (s.ctx b).ek → (s.ctx a).vector = (s.ctx b).vector →
    (s.ctx a).shandaEn = (s.ctx b).shandaEn →
    body.length ≤ 0xFFFF → s.len = BitVec.ofNat 32 body.length → s.holds s.src.toNat body →
    s.src.toNat + body.length ≤ Config.params.bufBytes →
    s.dst.toNat + 4 + body.length ≤ Config.params.bufBytes → x.toNat + body.length ≤ Config.params.bufBytes →
    ∃ t u, exec (.encrypt a d) s = .next t ∧ t.code = .ok ∧
      exec (.decrypt b) { t with src := s.dst, len := t.result, dst := x } = .next u ∧ u.code = .ok ∧
      u.holds x.toNat body ∧ u.result = BitVec.ofNat 32 body.length ∧
      (u.ctx a).vector = shuffle Config.params (s.ctx a).vector ∧
      (u.ctx b).vector = shuffle Config.params (s.ctx a).vector

/-! ## The Shanda pass -/

/-- R207: the Shanda functions are inverse to each other, both ways, on byte sequences of every length, and keep the
length. -/
def Obligations.ShandaInverse : Prop :=
  ∀ d : List Byte, shandaDec (shandaEnc d) = d ∧ shandaEnc (shandaDec d) = d ∧
    (shandaEnc d).length = d.length ∧ (shandaDec d).length = d.length

/-- 95_test_vectors.md 2.11, by R200 to R206: the one-byte traces, "HELLO", and the order of indices in two bytes. -/
def Obligations.ShandaTestVectors : Prop :=
  shandaDec [0xF6] = [0x00] ∧ shandaEnc [0x00] = [0xF6] ∧ shandaEnc [0x01, 0x02] = [0x82, 0x83] ∧
  shandaEnc [0x48, 0x45, 0x4C, 0x4C, 0x4F] = [0xD6, 0x2E, 0xD6, 0xAE, 0x89] ∧
  shandaDec [0x48, 0x45, 0x4C, 0x4C, 0x4F] = [0xDF, 0xBA, 0x1D, 0x8B, 0x6B] ∧ shandaEnc [] = [] ∧ shandaDec [] = []

/-- R209, R210: the encodings of SHANDA_ENC and SHANDA_DEC, ILLEGAL_OP where the implementation lacks them, their
checks, and on OK the pass over the `LEN` bytes at `SRC` at `DST`; no context changes. -/
def Obligations.ShandaCommandsComplete : Prop :=
  encodedBy .shandaEnc 0x0A none none ∧ encodedBy .shandaDec 0x0B none none ∧
  (∀ (P : Params) (w : Word), P.hasShanda = false → w.extractLsb' 0 8 = 0x0A ∨ w.extractLsb' 0 8 = 0x0B →
    decodeWord P w = .error .illegalOp) ∧
  ∀ s : State,
    let n := s.len.toNat
    (Config.params.bufBytes < s.src.toNat + n ∨ Config.params.bufBytes < s.dst.toNat + n →
      exec .shandaEnc s = .next (s.failed .range) ∧ exec .shandaDec s = .next (s.failed .range)) ∧
    (s.src.toNat + n ≤ Config.params.bufBytes → s.dst.toNat + n ≤ Config.params.bufBytes →
      ∀ body : List Byte, body.length = n → s.holds s.src.toNat body →
      (∃ t, exec .shandaEnc s = .next t ∧ s.okFrame t s.len ∧ t.ctx0 = s.ctx0 ∧ t.ctx1 = s.ctx1 ∧
        s.wrote t s.dst.toNat (shandaEnc body)) ∧
      ∃ t, exec .shandaDec s = .next t ∧ s.okFrame t s.len ∧ t.ctx0 = s.ctx0 ∧ t.ctx1 = s.ctx1 ∧
        s.wrote t s.dst.toNat (shandaDec body))

/-! ## Completion -/

/-- R223: a command that ends with a code other than OK changes `CODE`, `BUSY`, `DONE` and `RESULT` (to 0) alone, and
leaves `ANN_VALID` 0. -/
def Obligations.ErrorCompletionHasNoEffect : Prop :=
  ∀ (i : Instr) (s t : State), exec i s = .next t → t.code ≠ .ok → t = s.failed t.code

/-- The frame of every command that ends OK: the operand and staging registers, `CMD`, `IRQ_EN`, `WDROP` and the
host's own fields never change; `ANNOUNCE` changes only by ENCRYPT; a context changes only by a command that names it;
and `BUF` changes only by a storing command, inside the range from `DST` on. -/
def Obligations.CommandFrame : Prop :=
  ∀ (i : Instr) (s t : State), exec i s = .next t →
    t.cmd = s.cmd ∧ t.src = s.src ∧ t.dst = s.dst ∧ t.len = s.len ∧ t.value = s.value ∧ t.keyLo = s.keyLo ∧
    t.keyHi = s.keyHi ∧ t.version = s.version ∧ t.irqEn = s.irqEn ∧ t.wdrop = s.wdrop ∧ t.inputs = s.inputs ∧
    t.readData = s.readData ∧ (¬ (∃ c d, i = .encrypt c d) → t.announce = s.announce ∧ t.annValid = false) ∧
    (∀ c, t.ctx c ≠ s.ctx c → i = .ctxInit c ∨ i = .setVector c ∨ i = .ivShuffle c ∨ i = .xform c ∨
      (∃ d, i = .encrypt c d) ∨ i = .decrypt c) ∧
    (∀ c, (t.ctx c).shandaEn = (s.ctx c).shandaEn ∧ (t.ctx c).announceEn = (s.ctx c).announceEn) ∧
    ((i = .nop ∨ (∃ c, i = .ctxInit c) ∨ (∃ c, i = .setVector c) ∨ (∃ c, i = .ivShuffle c) ∨ i = .pktLen) →
      t.mem = s.mem) ∧
    ∀ a, ¬ inRange s.dst.toNat (4 + s.len.toNat) a → t.mem.read a = s.mem.read a

/-- R65, R230: a command whose checks pass and whose source bytes include an uninitialised one is `F_UNINIT`: the
header of PKT_LEN and DECRYPT and the prefix of HS_STRIP, before the checks on the body length they give, and then the
body. -/
def Obligations.UninitialisedSourceFaults : Prop :=
  ∀ s : State,
    let n := s.len.toNat
    let B := Config.params.bufBytes
    (s.src.toNat + 4 ≤ B → s.uninitIn s.src.toNat 4 → exec .pktLen s = .fault .uninit) ∧
    (s.src.toNat + n ≤ B → s.dst.toNat + n ≤ B → s.uninitIn s.src.toNat n →
      exec .shandaEnc s = .fault .uninit ∧ exec .shandaDec s = .fault .uninit ∧
      ∀ c, s.ready c → exec (.xform c) s = .fault .uninit) ∧
    (∀ c d, s.ready c → n ≤ 0xFFFF → s.src.toNat + n ≤ B → s.dst.toNat + 4 + n ≤ B → s.uninitIn s.src.toNat n →
      exec (.encrypt c d) s = .fault .uninit) ∧
    (∀ c, s.ready c → 4 ≤ n → s.src.toNat + n ≤ B →
      (s.uninitIn s.src.toNat 4 → exec (.decrypt c) s = .fault .uninit) ∧
      ∀ b0 b1 b2 b3 : Byte, s.holds s.src.toNat [b0, b1, b2, b3] →
        let m := ((b1 ++ b0) ^^^ (b3 ++ b2) : Half).toNat
        4 + m ≤ n → s.dst.toNat + m ≤ B → s.uninitIn (s.src.toNat + 4) m → exec (.decrypt c) s = .fault .uninit) ∧
    (2 ≤ n → s.src.toNat + n ≤ B →
      (s.uninitIn s.src.toNat 2 → exec .hsStrip s = .fault .uninit) ∧
      ∀ b0 b1 : Byte, s.holds s.src.toNat [b0, b1] →
        let m := (b1 ++ b0 : Half).toNat
        2 + m ≤ n → s.dst.toNat + m ≤ B → s.uninitIn (s.src.toNat + 2) m → exec .hsStrip s = .fault .uninit)

/-! ## The Shanda pass, index by index, and the abort range of an uninitialised source -/

/-- R200, R201, R202, R204, R205, R208: each sub-pass, index by index. Its j-th visited index sees `remaining_len` (n
- j) mod 256 and the t of the index visited before it, 0 at the first; the A sub-passes visit from index n - 1 down.
Decryption is three times A then B, encryption three times B⁻¹ then A⁻¹. -/
def Obligations.ShandaSubPasses : Prop :=
  ∀ d : List Byte,
    let n := d.length
    let L := remainingAt n
    (∃ t : Nat → Byte, ∀ (j : Nat) (h : j < n),
      t j = (d[n - 1 - j].rotateLeft 3) ^^^ 0x13 ∧
      (subADec d)[n - 1 - j]? = some (((xorKeyAt t j ^^^ t j) - L j).rotateRight 4)) ∧
    (∃ t : Nat → Byte, ∀ (j : Nat) (h : j < n),
      t j = (~~~(d[j] - 0x48)).rotateLeft ((L j).toNat % 8) ∧
      (subBDec d)[j]? = some (((xorKeyAt t j ^^^ t j) - L j).rotateRight 3)) ∧
    (∃ t : Nat → Byte, ∀ (j : Nat) (h : j < n),
      t j = (d[j].rotateLeft 3 + L j) ^^^ xorKeyAt t j ∧
      (subBEnc d)[j]? = some (~~~((t j).rotateRight ((L j).toNat % 8)) + 0x48)) ∧
    (∃ t : Nat → Byte, ∀ (j : Nat) (h : j < n),
      t j = (d[n - 1 - j].rotateLeft 4 + L j) ^^^ xorKeyAt t j ∧
      (subAEnc d)[n - 1 - j]? = some ((t j ^^^ 0x13).rotateRight 3)) ∧
    ((subADec d).length = n ∧ (subBDec d).length = n ∧ (subBEnc d).length = n ∧ (subAEnc d).length = n) ∧
    shandaDec d = subBDec (subADec (subBDec (subADec (subBDec (subADec d))))) ∧
    shandaEnc d = subAEnc (subBEnc (subAEnc (subBEnc (subAEnc (subBEnc d)))))

/-- The model's choice for an aborted command with uninitialised source bytes (log 6): its range is at least the range
of the same command under every initialisation of the bytes that are not initialised. -/
def Obligations.AbortRangeCoversEveryInitialisation : Prop :=
  ∀ (i : Instr) (s : State) (m : Memory), m.initialises s.mem →
    destLen Config.params { s with mem := m } i ≤ destLen Config.params s i
end

