-- ==== Sys2Proof/Laws/Memory.lean ====
section
/-! SUPPORT. The laws of `BUF`: what each operation reads back, and that each keeps the canonical form. -/

namespace Sys2Proof.Machine

@[simp] theorem Memory.read_nil (a : Nat) : Memory.read [] a = none := rfl

theorem Memory.read_cons (k : Nat) (v : Byte) (m : Memory) (a : Nat) :
    Memory.read ((k, v) :: m) a = if k = a then some v else Memory.read m a := rfl

/-! ## One byte -/

@[simp] theorem Memory.read_write_same (m : Memory) (a : Nat) (b : Byte) : (m.write a b).read a = some b := by
  induction m with
  | nil => simp [Memory.write, Memory.read]
  | cons cell m ih =>
    obtain ⟨k, v⟩ := cell
    simp only [Memory.write]
    split
    · simp [Memory.read]
    · split
      · simp [Memory.read]
      · rename_i _ h
        simp [Memory.read, Ne.symm h, ih]

theorem Memory.read_write_other (m : Memory) (a x : Nat) (b : Byte) (h : x ≠ a) : (m.write a b).read x = m.read x := by
  induction m with
  | nil => simp [Memory.write, Memory.read, Ne.symm h]
  | cons cell m ih =>
    obtain ⟨k, v⟩ := cell
    simp only [Memory.write]
    split
    · simp [Memory.read, Ne.symm h]
    · split
      · rename_i _ he
        subst he
        simp [Memory.read, Ne.symm h]
      · simp [Memory.read, ih]

theorem Memory.mem_write (m : Memory) (a : Nat) (b : Byte) (cell : Host.Cell) (h : cell ∈ m.write a b) :
    cell = (a, b) ∨ cell ∈ m := by
  induction m with
  | nil => exact Or.inl (List.mem_singleton.mp h)
  | cons head m ih =>
    obtain ⟨k, v⟩ := head
    simp only [Memory.write] at h
    split at h
    · exact (List.mem_cons.mp h).imp_right id
    · split at h
      · exact (List.mem_cons.mp h).imp_right (List.mem_cons_of_mem _)
      · rcases List.mem_cons.mp h with h | h
        · exact Or.inr (h ▸ List.mem_cons_self ..)
        · exact (ih h).imp_right (List.mem_cons_of_mem _)

theorem Memory.wf_nil : Memory.wf [] := List.Pairwise.nil

theorem Memory.wf_write (m : Memory) (a : Nat) (b : Byte) (h : m.wf) : (m.write a b).wf := by
  induction m with
  | nil => exact List.pairwise_singleton _ _
  | cons head m ih =>
    obtain ⟨k, v⟩ := head
    obtain ⟨hk, hm⟩ := List.pairwise_cons.mp h
    simp only [Memory.write]
    split
    · rename_i hlt
      refine List.pairwise_cons.mpr ⟨fun cell hc => ?_, h⟩
      rcases List.mem_cons.mp hc with rfl | hc
      · exact hlt
      · exact Nat.lt_trans hlt (hk cell hc)
    · split
      · rename_i he
        subst he
        exact List.pairwise_cons.mpr ⟨hk, hm⟩
      · refine List.pairwise_cons.mpr ⟨fun cell hc => ?_, ih hm⟩
        rcases Memory.mem_write m a b cell hc with rfl | hc
        · show k < a
          omega
        · exact hk cell hc

/-! ## Byte sequences -/

theorem Memory.read_writeBytes_outside (m : Memory) (off : Nat) (bs : List Byte) (x : Nat)
    (h : x < off ∨ off + bs.length ≤ x) : (m.writeBytes off bs).read x = m.read x := by
  induction bs generalizing m off with
  | nil => rfl
  | cons b bs ih =>
    simp only [List.length_cons] at h
    rw [Memory.writeBytes, ih _ _ (by omega), Memory.read_write_other _ _ _ _ (by omega)]

theorem Memory.read_writeBytes_inside (m : Memory) (off : Nat) (bs : List Byte) (j : Nat) (h : j < bs.length) :
    (m.writeBytes off bs).read (off + j) = some bs[j] := by
  induction bs generalizing m off j with
  | nil => simp at h
  | cons b bs ih =>
    rw [Memory.writeBytes]
    cases j with
    | zero => simp [Memory.read_writeBytes_outside]
    | succ j =>
      rw [show off + (j + 1) = off + 1 + j by omega]
      exact ih _ _ _ (by simpa using h)

theorem Memory.mem_writeBytes (m : Memory) (off : Nat) (bs : List Byte) (cell : Host.Cell)
    (h : cell ∈ m.writeBytes off bs) : cell ∈ m ∨ off ≤ cell.1 ∧ cell.1 < off + bs.length := by
  induction bs generalizing m off with
  | nil => exact Or.inl h
  | cons b bs ih =>
    simp only [List.length_cons]
    rcases ih _ _ h with h | h
    · rcases Memory.mem_write _ _ _ _ h with rfl | h
      · exact Or.inr ⟨Nat.le_refl _, by show off < _; omega⟩
      · exact Or.inl h
    · exact Or.inr (by omega)

theorem Memory.wf_writeBytes (m : Memory) (off : Nat) (bs : List Byte) (h : m.wf) : (m.writeBytes off bs).wf := by
  induction bs generalizing m off with
  | nil => exact h
  | cons b bs ih => exact ih _ _ (Memory.wf_write _ _ _ h)

/-- What `MemRead` answers: exactly n bytes, each the one at its offset. -/
theorem Memory.readBytes_eq_some (m : Memory) (off n : Nat) (bs : List Byte) :
    m.readBytes off n = some bs ↔ bs.length = n ∧ ∀ (j : Nat) (h : j < bs.length), m.read (off + j) = some bs[j] := by
  induction n generalizing off bs with
  | zero =>
    constructor
    · intro h
      cases h
      exact ⟨rfl, fun j h => absurd h (by simp)⟩
    · rintro ⟨h, -⟩
      rw [List.length_eq_zero_iff.mp h]
      rfl
  | succ n ih =>
    constructor
    · intro h
      simp only [Memory.readBytes] at h
      split at h
      · rename_i b bs' hb hbs
        cases h
        obtain ⟨hl, hr⟩ := (ih _ _).mp hbs
        refine ⟨by simp [hl], fun j hj => ?_⟩
        cases j with
        | zero => exact hb
        | succ j =>
          rw [show off + (j + 1) = off + 1 + j by omega]
          exact hr j (by simpa using hj)
      · cases h
    · rintro ⟨hl, hr⟩
      cases bs with
      | nil => simp at hl
      | cons b bs =>
        have hb : m.read off = some b := hr 0 (by simp)
        have hbs : m.readBytes (off + 1) n = some bs := (ih _ _).mpr ⟨by simpa using hl, fun j hj => by
          have := hr (j + 1) (by simpa using hj)
          rwa [show off + (j + 1) = off + 1 + j by omega] at this⟩
        simp [Memory.readBytes, hb, hbs]

theorem Memory.readBytes_length (m : Memory) (off n : Nat) (bs : List Byte) (h : m.readBytes off n = some bs) :
    bs.length = n := ((Memory.readBytes_eq_some m off n bs).mp h).1

/-- `MemRead` after `MemWrite` of the same range reads what was written. -/
theorem Memory.readBytes_writeBytes (m : Memory) (off : Nat) (bs : List Byte) :
    (m.writeBytes off bs).readBytes off bs.length = some bs :=
  (Memory.readBytes_eq_some _ _ _ _).mpr ⟨rfl, fun j h => Memory.read_writeBytes_inside m off bs j h⟩

/-! ## Forgetting -/

theorem Memory.read_forget (m : Memory) (off n x : Nat) :
    (m.forget off n).read x = if off ≤ x ∧ x < off + n then none else m.read x := by
  induction m with
  | nil => simp [Memory.forget]
  | cons head m ih =>
    obtain ⟨k, v⟩ := head
    simp only [Memory.forget, List.filter_cons] at ih ⊢
    by_cases hk : off ≤ k ∧ k < off + n
    · simp only [hk.1, hk.2, decide_true, Bool.and_self, Bool.not_true, Bool.false_eq_true, if_false, ih, Memory.read_cons]
      by_cases hx : k = x
      · subst hx
        simp [hk]
      · simp [hx]
    · have : (!(decide (off ≤ k) && decide (k < off + n))) = true := by
        simp only [Bool.not_eq_true', Bool.and_eq_false_iff, decide_eq_false_iff_not]
        omega
      simp only [this, if_true, Memory.read_cons, ih]
      by_cases hx : k = x
      · subst hx
        simp [hk]
      · simp [hx]

theorem Memory.wf_forget (m : Memory) (off n : Nat) (h : m.wf) : (m.forget off n).wf :=
  List.Pairwise.filter _ h

theorem Memory.mem_forget (m : Memory) (off n : Nat) (cell : Host.Cell) (h : cell ∈ m.forget off n) : cell ∈ m :=
  List.mem_of_mem_filter h

@[simp] theorem Memory.forget_zero (m : Memory) (off : Nat) : m.forget off 0 = m := by
  refine List.filter_eq_self.mpr fun cell _ => ?_
  simp only [Nat.add_zero, Bool.not_eq_true', Bool.and_eq_false_iff, decide_eq_false_iff_not]
  omega

end Sys2Proof.Machine
end

