-- ==== Sys2Proof/Laws/State.lean ====
section
/-! SUPPORT. What each update of the state does to each field. -/

namespace Sys2Proof.Machine

/-! ## `State.accept` -/

@[simp] theorem State.accept_irqEn (s : State) (w : Word) : (s.accept w).irqEn = s.irqEn := rfl
@[simp] theorem State.accept_busy (s : State) (w : Word) : (s.accept w).busy = true := rfl
@[simp] theorem State.accept_done (s : State) (w : Word) : (s.accept w).done = false := rfl
@[simp] theorem State.accept_annValid (s : State) (w : Word) : (s.accept w).annValid = false := rfl
@[simp] theorem State.accept_wdrop (s : State) (w : Word) : (s.accept w).wdrop = s.wdrop := rfl
@[simp] theorem State.accept_code (s : State) (w : Word) : (s.accept w).code = s.code := rfl
@[simp] theorem State.accept_cmd (s : State) (w : Word) : (s.accept w).cmd = w := rfl
@[simp] theorem State.accept_src (s : State) (w : Word) : (s.accept w).src = s.src := rfl
@[simp] theorem State.accept_dst (s : State) (w : Word) : (s.accept w).dst = s.dst := rfl
@[simp] theorem State.accept_len (s : State) (w : Word) : (s.accept w).len = s.len := rfl
@[simp] theorem State.accept_value (s : State) (w : Word) : (s.accept w).value = s.value := rfl
@[simp] theorem State.accept_result (s : State) (w : Word) : (s.accept w).result = s.result := rfl
@[simp] theorem State.accept_announce (s : State) (w : Word) : (s.accept w).announce = s.announce := rfl
@[simp] theorem State.accept_keyLo (s : State) (w : Word) : (s.accept w).keyLo = s.keyLo := rfl
@[simp] theorem State.accept_keyHi (s : State) (w : Word) : (s.accept w).keyHi = s.keyHi := rfl
@[simp] theorem State.accept_version (s : State) (w : Word) : (s.accept w).version = s.version := rfl
@[simp] theorem State.accept_ctx0 (s : State) (w : Word) : (s.accept w).ctx0 = s.ctx0 := rfl
@[simp] theorem State.accept_ctx1 (s : State) (w : Word) : (s.accept w).ctx1 = s.ctx1 := rfl
@[simp] theorem State.accept_mem (s : State) (w : Word) : (s.accept w).mem = s.mem := rfl
@[simp] theorem State.accept_inputs (s : State) (w : Word) : (s.accept w).inputs = s.inputs := rfl
@[simp] theorem State.accept_readData (s : State) (w : Word) : (s.accept w).readData = s.readData := rfl
@[simp] theorem State.accept_ctx (s : State) (w : Word) (c : CtxId) : (s.accept w).ctx c = s.ctx c := by cases c <;> rfl

/-! ## `State.dropWrite` -/

@[simp] theorem State.dropWrite_irqEn (s : State) : (s.dropWrite).irqEn = s.irqEn := rfl
@[simp] theorem State.dropWrite_busy (s : State) : (s.dropWrite).busy = s.busy := rfl
@[simp] theorem State.dropWrite_done (s : State) : (s.dropWrite).done = s.done := rfl
@[simp] theorem State.dropWrite_annValid (s : State) : (s.dropWrite).annValid = s.annValid := rfl
@[simp] theorem State.dropWrite_wdrop (s : State) : (s.dropWrite).wdrop = true := rfl
@[simp] theorem State.dropWrite_code (s : State) : (s.dropWrite).code = s.code := rfl
@[simp] theorem State.dropWrite_cmd (s : State) : (s.dropWrite).cmd = s.cmd := rfl
@[simp] theorem State.dropWrite_src (s : State) : (s.dropWrite).src = s.src := rfl
@[simp] theorem State.dropWrite_dst (s : State) : (s.dropWrite).dst = s.dst := rfl
@[simp] theorem State.dropWrite_len (s : State) : (s.dropWrite).len = s.len := rfl
@[simp] theorem State.dropWrite_value (s : State) : (s.dropWrite).value = s.value := rfl
@[simp] theorem State.dropWrite_result (s : State) : (s.dropWrite).result = s.result := rfl
@[simp] theorem State.dropWrite_announce (s : State) : (s.dropWrite).announce = s.announce := rfl
@[simp] theorem State.dropWrite_keyLo (s : State) : (s.dropWrite).keyLo = s.keyLo := rfl
@[simp] theorem State.dropWrite_keyHi (s : State) : (s.dropWrite).keyHi = s.keyHi := rfl
@[simp] theorem State.dropWrite_version (s : State) : (s.dropWrite).version = s.version := rfl
@[simp] theorem State.dropWrite_ctx0 (s : State) : (s.dropWrite).ctx0 = s.ctx0 := rfl
@[simp] theorem State.dropWrite_ctx1 (s : State) : (s.dropWrite).ctx1 = s.ctx1 := rfl
@[simp] theorem State.dropWrite_mem (s : State) : (s.dropWrite).mem = s.mem := rfl
@[simp] theorem State.dropWrite_inputs (s : State) : (s.dropWrite).inputs = s.inputs := rfl
@[simp] theorem State.dropWrite_readData (s : State) : (s.dropWrite).readData = s.readData := rfl
@[simp] theorem State.dropWrite_ctx (s : State) (c : CtxId) : (s.dropWrite).ctx c = s.ctx c := by cases c <;> rfl

/-! ## `State.finish` -/

@[simp] theorem State.finish_irqEn (s : State) (code : Code) (r : Word) : (s.finish code r).irqEn = s.irqEn := rfl
@[simp] theorem State.finish_busy (s : State) (code : Code) (r : Word) : (s.finish code r).busy = false := rfl
@[simp] theorem State.finish_done (s : State) (code : Code) (r : Word) : (s.finish code r).done = true := rfl
@[simp] theorem State.finish_annValid (s : State) (code : Code) (r : Word) : (s.finish code r).annValid = false := rfl
@[simp] theorem State.finish_wdrop (s : State) (code : Code) (r : Word) : (s.finish code r).wdrop = s.wdrop := rfl
@[simp] theorem State.finish_code (s : State) (code : Code) (r : Word) : (s.finish code r).code = code := rfl
@[simp] theorem State.finish_cmd (s : State) (code : Code) (r : Word) : (s.finish code r).cmd = s.cmd := rfl
@[simp] theorem State.finish_src (s : State) (code : Code) (r : Word) : (s.finish code r).src = s.src := rfl
@[simp] theorem State.finish_dst (s : State) (code : Code) (r : Word) : (s.finish code r).dst = s.dst := rfl
@[simp] theorem State.finish_len (s : State) (code : Code) (r : Word) : (s.finish code r).len = s.len := rfl
@[simp] theorem State.finish_value (s : State) (code : Code) (r : Word) : (s.finish code r).value = s.value := rfl
@[simp] theorem State.finish_result (s : State) (code : Code) (r : Word) : (s.finish code r).result = r := rfl
@[simp] theorem State.finish_announce (s : State) (code : Code) (r : Word) : (s.finish code r).announce = s.announce := rfl
@[simp] theorem State.finish_keyLo (s : State) (code : Code) (r : Word) : (s.finish code r).keyLo = s.keyLo := rfl
@[simp] theorem State.finish_keyHi (s : State) (code : Code) (r : Word) : (s.finish code r).keyHi = s.keyHi := rfl
@[simp] theorem State.finish_version (s : State) (code : Code) (r : Word) : (s.finish code r).version = s.version := rfl
@[simp] theorem State.finish_ctx0 (s : State) (code : Code) (r : Word) : (s.finish code r).ctx0 = s.ctx0 := rfl
@[simp] theorem State.finish_ctx1 (s : State) (code : Code) (r : Word) : (s.finish code r).ctx1 = s.ctx1 := rfl
@[simp] theorem State.finish_mem (s : State) (code : Code) (r : Word) : (s.finish code r).mem = s.mem := rfl
@[simp] theorem State.finish_inputs (s : State) (code : Code) (r : Word) : (s.finish code r).inputs = s.inputs := rfl
@[simp] theorem State.finish_readData (s : State) (code : Code) (r : Word) : (s.finish code r).readData = s.readData := rfl
@[simp] theorem State.finish_ctx (s : State) (code : Code) (r : Word) (c : CtxId) : (s.finish code r).ctx c = s.ctx c := by cases c <;> rfl

/-! ## `State.store` -/

@[simp] theorem State.store_irqEn (s : State) (off : Nat) (bs : List Byte) : (s.store off bs).irqEn = s.irqEn := rfl
@[simp] theorem State.store_busy (s : State) (off : Nat) (bs : List Byte) : (s.store off bs).busy = s.busy := rfl
@[simp] theorem State.store_done (s : State) (off : Nat) (bs : List Byte) : (s.store off bs).done = s.done := rfl
@[simp] theorem State.store_annValid (s : State) (off : Nat) (bs : List Byte) : (s.store off bs).annValid = s.annValid := rfl
@[simp] theorem State.store_wdrop (s : State) (off : Nat) (bs : List Byte) : (s.store off bs).wdrop = s.wdrop := rfl
@[simp] theorem State.store_code (s : State) (off : Nat) (bs : List Byte) : (s.store off bs).code = s.code := rfl
@[simp] theorem State.store_cmd (s : State) (off : Nat) (bs : List Byte) : (s.store off bs).cmd = s.cmd := rfl
@[simp] theorem State.store_src (s : State) (off : Nat) (bs : List Byte) : (s.store off bs).src = s.src := rfl
@[simp] theorem State.store_dst (s : State) (off : Nat) (bs : List Byte) : (s.store off bs).dst = s.dst := rfl
@[simp] theorem State.store_len (s : State) (off : Nat) (bs : List Byte) : (s.store off bs).len = s.len := rfl
@[simp] theorem State.store_value (s : State) (off : Nat) (bs : List Byte) : (s.store off bs).value = s.value := rfl
@[simp] theorem State.store_result (s : State) (off : Nat) (bs : List Byte) : (s.store off bs).result = s.result := rfl
@[simp] theorem State.store_announce (s : State) (off : Nat) (bs : List Byte) : (s.store off bs).announce = s.announce := rfl
@[simp] theorem State.store_keyLo (s : State) (off : Nat) (bs : List Byte) : (s.store off bs).keyLo = s.keyLo := rfl
@[simp] theorem State.store_keyHi (s : State) (off : Nat) (bs : List Byte) : (s.store off bs).keyHi = s.keyHi := rfl
@[simp] theorem State.store_version (s : State) (off : Nat) (bs : List Byte) : (s.store off bs).version = s.version := rfl
@[simp] theorem State.store_ctx0 (s : State) (off : Nat) (bs : List Byte) : (s.store off bs).ctx0 = s.ctx0 := rfl
@[simp] theorem State.store_ctx1 (s : State) (off : Nat) (bs : List Byte) : (s.store off bs).ctx1 = s.ctx1 := rfl
@[simp] theorem State.store_mem (s : State) (off : Nat) (bs : List Byte) : (s.store off bs).mem = s.mem.writeBytes off bs := rfl
@[simp] theorem State.store_inputs (s : State) (off : Nat) (bs : List Byte) : (s.store off bs).inputs = s.inputs := rfl
@[simp] theorem State.store_readData (s : State) (off : Nat) (bs : List Byte) : (s.store off bs).readData = s.readData := rfl
@[simp] theorem State.store_ctx (s : State) (off : Nat) (bs : List Byte) (c : CtxId) : (s.store off bs).ctx c = s.ctx c := by cases c <;> rfl

/-! ## `State.writeStatus` -/

@[simp] theorem State.writeStatus_irqEn (s : State) (v : Word) : (s.writeStatus v).irqEn = s.irqEn := rfl
@[simp] theorem State.writeStatus_busy (s : State) (v : Word) : (s.writeStatus v).busy = s.busy := rfl
@[simp] theorem State.writeStatus_done (s : State) (v : Word) : (s.writeStatus v).done = (s.done && !v.getLsbD 1) := rfl
@[simp] theorem State.writeStatus_annValid (s : State) (v : Word) : (s.writeStatus v).annValid = s.annValid := rfl
@[simp] theorem State.writeStatus_wdrop (s : State) (v : Word) : (s.writeStatus v).wdrop = (s.wdrop && !v.getLsbD 3) := rfl
@[simp] theorem State.writeStatus_code (s : State) (v : Word) : (s.writeStatus v).code = s.code := rfl
@[simp] theorem State.writeStatus_cmd (s : State) (v : Word) : (s.writeStatus v).cmd = s.cmd := rfl
@[simp] theorem State.writeStatus_src (s : State) (v : Word) : (s.writeStatus v).src = s.src := rfl
@[simp] theorem State.writeStatus_dst (s : State) (v : Word) : (s.writeStatus v).dst = s.dst := rfl
@[simp] theorem State.writeStatus_len (s : State) (v : Word) : (s.writeStatus v).len = s.len := rfl
@[simp] theorem State.writeStatus_value (s : State) (v : Word) : (s.writeStatus v).value = s.value := rfl
@[simp] theorem State.writeStatus_result (s : State) (v : Word) : (s.writeStatus v).result = s.result := rfl
@[simp] theorem State.writeStatus_announce (s : State) (v : Word) : (s.writeStatus v).announce = s.announce := rfl
@[simp] theorem State.writeStatus_keyLo (s : State) (v : Word) : (s.writeStatus v).keyLo = s.keyLo := rfl
@[simp] theorem State.writeStatus_keyHi (s : State) (v : Word) : (s.writeStatus v).keyHi = s.keyHi := rfl
@[simp] theorem State.writeStatus_version (s : State) (v : Word) : (s.writeStatus v).version = s.version := rfl
@[simp] theorem State.writeStatus_ctx0 (s : State) (v : Word) : (s.writeStatus v).ctx0 = s.ctx0 := rfl
@[simp] theorem State.writeStatus_ctx1 (s : State) (v : Word) : (s.writeStatus v).ctx1 = s.ctx1 := rfl
@[simp] theorem State.writeStatus_mem (s : State) (v : Word) : (s.writeStatus v).mem = s.mem := rfl
@[simp] theorem State.writeStatus_inputs (s : State) (v : Word) : (s.writeStatus v).inputs = s.inputs := rfl
@[simp] theorem State.writeStatus_readData (s : State) (v : Word) : (s.writeStatus v).readData = s.readData := rfl
@[simp] theorem State.writeStatus_ctx (s : State) (v : Word) (c : CtxId) : (s.writeStatus v).ctx c = s.ctx c := by cases c <;> rfl

/-! ## `State.answer` -/

@[simp] theorem State.answer_irqEn (s : State) (v : Word) : (s.answer v).irqEn = s.irqEn := rfl
@[simp] theorem State.answer_busy (s : State) (v : Word) : (s.answer v).busy = s.busy := rfl
@[simp] theorem State.answer_done (s : State) (v : Word) : (s.answer v).done = s.done := rfl
@[simp] theorem State.answer_annValid (s : State) (v : Word) : (s.answer v).annValid = s.annValid := rfl
@[simp] theorem State.answer_wdrop (s : State) (v : Word) : (s.answer v).wdrop = s.wdrop := rfl
@[simp] theorem State.answer_code (s : State) (v : Word) : (s.answer v).code = s.code := rfl
@[simp] theorem State.answer_cmd (s : State) (v : Word) : (s.answer v).cmd = s.cmd := rfl
@[simp] theorem State.answer_src (s : State) (v : Word) : (s.answer v).src = s.src := rfl
@[simp] theorem State.answer_dst (s : State) (v : Word) : (s.answer v).dst = s.dst := rfl
@[simp] theorem State.answer_len (s : State) (v : Word) : (s.answer v).len = s.len := rfl
@[simp] theorem State.answer_value (s : State) (v : Word) : (s.answer v).value = s.value := rfl
@[simp] theorem State.answer_result (s : State) (v : Word) : (s.answer v).result = s.result := rfl
@[simp] theorem State.answer_announce (s : State) (v : Word) : (s.answer v).announce = s.announce := rfl
@[simp] theorem State.answer_keyLo (s : State) (v : Word) : (s.answer v).keyLo = s.keyLo := rfl
@[simp] theorem State.answer_keyHi (s : State) (v : Word) : (s.answer v).keyHi = s.keyHi := rfl
@[simp] theorem State.answer_version (s : State) (v : Word) : (s.answer v).version = s.version := rfl
@[simp] theorem State.answer_ctx0 (s : State) (v : Word) : (s.answer v).ctx0 = s.ctx0 := rfl
@[simp] theorem State.answer_ctx1 (s : State) (v : Word) : (s.answer v).ctx1 = s.ctx1 := rfl
@[simp] theorem State.answer_mem (s : State) (v : Word) : (s.answer v).mem = s.mem := rfl
@[simp] theorem State.answer_inputs (s : State) (v : Word) : (s.answer v).inputs = s.inputs := rfl
@[simp] theorem State.answer_readData (s : State) (v : Word) : (s.answer v).readData = some v := rfl
@[simp] theorem State.answer_ctx (s : State) (v : Word) (c : CtxId) : (s.answer v).ctx c = s.ctx c := by cases c <;> rfl

/-! ## `State.setCtx` and `State.setVectorOf` -/

@[simp] theorem State.setCtx_irqEn (s : State) (c : CtxId) (k : Context) : (s.setCtx c k).irqEn = s.irqEn := by cases c <;> rfl
@[simp] theorem State.setCtx_busy (s : State) (c : CtxId) (k : Context) : (s.setCtx c k).busy = s.busy := by cases c <;> rfl
@[simp] theorem State.setCtx_done (s : State) (c : CtxId) (k : Context) : (s.setCtx c k).done = s.done := by cases c <;> rfl
@[simp] theorem State.setCtx_annValid (s : State) (c : CtxId) (k : Context) : (s.setCtx c k).annValid = s.annValid := by cases c <;> rfl
@[simp] theorem State.setCtx_wdrop (s : State) (c : CtxId) (k : Context) : (s.setCtx c k).wdrop = s.wdrop := by cases c <;> rfl
@[simp] theorem State.setCtx_code (s : State) (c : CtxId) (k : Context) : (s.setCtx c k).code = s.code := by cases c <;> rfl
@[simp] theorem State.setCtx_cmd (s : State) (c : CtxId) (k : Context) : (s.setCtx c k).cmd = s.cmd := by cases c <;> rfl
@[simp] theorem State.setCtx_src (s : State) (c : CtxId) (k : Context) : (s.setCtx c k).src = s.src := by cases c <;> rfl
@[simp] theorem State.setCtx_dst (s : State) (c : CtxId) (k : Context) : (s.setCtx c k).dst = s.dst := by cases c <;> rfl
@[simp] theorem State.setCtx_len (s : State) (c : CtxId) (k : Context) : (s.setCtx c k).len = s.len := by cases c <;> rfl
@[simp] theorem State.setCtx_value (s : State) (c : CtxId) (k : Context) : (s.setCtx c k).value = s.value := by cases c <;> rfl
@[simp] theorem State.setCtx_result (s : State) (c : CtxId) (k : Context) : (s.setCtx c k).result = s.result := by cases c <;> rfl
@[simp] theorem State.setCtx_announce (s : State) (c : CtxId) (k : Context) : (s.setCtx c k).announce = s.announce := by cases c <;> rfl
@[simp] theorem State.setCtx_keyLo (s : State) (c : CtxId) (k : Context) : (s.setCtx c k).keyLo = s.keyLo := by cases c <;> rfl
@[simp] theorem State.setCtx_keyHi (s : State) (c : CtxId) (k : Context) : (s.setCtx c k).keyHi = s.keyHi := by cases c <;> rfl
@[simp] theorem State.setCtx_version (s : State) (c : CtxId) (k : Context) : (s.setCtx c k).version = s.version := by cases c <;> rfl
@[simp] theorem State.setCtx_mem (s : State) (c : CtxId) (k : Context) : (s.setCtx c k).mem = s.mem := by cases c <;> rfl
@[simp] theorem State.setCtx_inputs (s : State) (c : CtxId) (k : Context) : (s.setCtx c k).inputs = s.inputs := by cases c <;> rfl
@[simp] theorem State.setCtx_readData (s : State) (c : CtxId) (k : Context) : (s.setCtx c k).readData = s.readData := by cases c <;> rfl
@[simp] theorem State.setCtx_ctx_same (s : State) (c : CtxId) (k : Context) : (s.setCtx c k).ctx c = k := by cases c <;> rfl
theorem State.setCtx_ctx_other (s : State) (c c' : CtxId) (k : Context) (h : c' ≠ c) : (s.setCtx c k).ctx c' = s.ctx c' := by
  cases c <;> cases c' <;> first | rfl | exact absurd rfl h
@[simp] theorem State.setCtx_ctx0_ctx1 (s : State) (k : Context) : (s.setCtx .ctx0 k).ctx1 = s.ctx1 := rfl
@[simp] theorem State.setCtx_ctx1_ctx0 (s : State) (k : Context) : (s.setCtx .ctx1 k).ctx0 = s.ctx0 := rfl
@[simp] theorem State.setCtx_ctx0_ctx0 (s : State) (k : Context) : (s.setCtx .ctx0 k).ctx0 = k := rfl
@[simp] theorem State.setCtx_ctx1_ctx1 (s : State) (k : Context) : (s.setCtx .ctx1 k).ctx1 = k := rfl
@[simp] theorem State.ctx_ctx0 (s : State) : s.ctx .ctx0 = s.ctx0 := rfl
@[simp] theorem State.ctx_ctx1 (s : State) : s.ctx .ctx1 = s.ctx1 := rfl

@[simp] theorem State.setVectorOf_irqEn (s : State) (c : CtxId) (v : Word) : (s.setVectorOf c v).irqEn = s.irqEn := by cases c <;> rfl
@[simp] theorem State.setVectorOf_busy (s : State) (c : CtxId) (v : Word) : (s.setVectorOf c v).busy = s.busy := by cases c <;> rfl
@[simp] theorem State.setVectorOf_done (s : State) (c : CtxId) (v : Word) : (s.setVectorOf c v).done = s.done := by cases c <;> rfl
@[simp] theorem State.setVectorOf_annValid (s : State) (c : CtxId) (v : Word) : (s.setVectorOf c v).annValid = s.annValid := by cases c <;> rfl
@[simp] theorem State.setVectorOf_wdrop (s : State) (c : CtxId) (v : Word) : (s.setVectorOf c v).wdrop = s.wdrop := by cases c <;> rfl
@[simp] theorem State.setVectorOf_code (s : State) (c : CtxId) (v : Word) : (s.setVectorOf c v).code = s.code := by cases c <;> rfl
@[simp] theorem State.setVectorOf_cmd (s : State) (c : CtxId) (v : Word) : (s.setVectorOf c v).cmd = s.cmd := by cases c <;> rfl
@[simp] theorem State.setVectorOf_src (s : State) (c : CtxId) (v : Word) : (s.setVectorOf c v).src = s.src := by cases c <;> rfl
@[simp] theorem State.setVectorOf_dst (s : State) (c : CtxId) (v : Word) : (s.setVectorOf c v).dst = s.dst := by cases c <;> rfl
@[simp] theorem State.setVectorOf_len (s : State) (c : CtxId) (v : Word) : (s.setVectorOf c v).len = s.len := by cases c <;> rfl
@[simp] theorem State.setVectorOf_value (s : State) (c : CtxId) (v : Word) : (s.setVectorOf c v).value = s.value := by cases c <;> rfl
@[simp] theorem State.setVectorOf_result (s : State) (c : CtxId) (v : Word) : (s.setVectorOf c v).result = s.result := by cases c <;> rfl
@[simp] theorem State.setVectorOf_announce (s : State) (c : CtxId) (v : Word) : (s.setVectorOf c v).announce = s.announce := by cases c <;> rfl
@[simp] theorem State.setVectorOf_keyLo (s : State) (c : CtxId) (v : Word) : (s.setVectorOf c v).keyLo = s.keyLo := by cases c <;> rfl
@[simp] theorem State.setVectorOf_keyHi (s : State) (c : CtxId) (v : Word) : (s.setVectorOf c v).keyHi = s.keyHi := by cases c <;> rfl
@[simp] theorem State.setVectorOf_version (s : State) (c : CtxId) (v : Word) : (s.setVectorOf c v).version = s.version := by cases c <;> rfl
@[simp] theorem State.setVectorOf_mem (s : State) (c : CtxId) (v : Word) : (s.setVectorOf c v).mem = s.mem := by cases c <;> rfl
@[simp] theorem State.setVectorOf_inputs (s : State) (c : CtxId) (v : Word) : (s.setVectorOf c v).inputs = s.inputs := by cases c <;> rfl
@[simp] theorem State.setVectorOf_readData (s : State) (c : CtxId) (v : Word) : (s.setVectorOf c v).readData = s.readData := by cases c <;> rfl
@[simp] theorem State.setVectorOf_ctx_same (s : State) (c : CtxId) (v : Word) :
    (s.setVectorOf c v).ctx c = { s.ctx c with vector := v } := State.setCtx_ctx_same ..
theorem State.setVectorOf_ctx_other (s : State) (c c' : CtxId) (v : Word) (h : c' ≠ c) :
    (s.setVectorOf c v).ctx c' = s.ctx c' := State.setCtx_ctx_other s c c' _ h

/-! ## `State.announceStep` -/

@[simp] theorem State.announceStep_irqEn (s : State) (c : CtxId) : (s.announceStep c).irqEn = s.irqEn := by unfold State.announceStep; split <;> rfl
@[simp] theorem State.announceStep_busy (s : State) (c : CtxId) : (s.announceStep c).busy = s.busy := by unfold State.announceStep; split <;> rfl
@[simp] theorem State.announceStep_done (s : State) (c : CtxId) : (s.announceStep c).done = s.done := by unfold State.announceStep; split <;> rfl
@[simp] theorem State.announceStep_wdrop (s : State) (c : CtxId) : (s.announceStep c).wdrop = s.wdrop := by unfold State.announceStep; split <;> rfl
@[simp] theorem State.announceStep_code (s : State) (c : CtxId) : (s.announceStep c).code = s.code := by unfold State.announceStep; split <;> rfl
@[simp] theorem State.announceStep_cmd (s : State) (c : CtxId) : (s.announceStep c).cmd = s.cmd := by unfold State.announceStep; split <;> rfl
@[simp] theorem State.announceStep_src (s : State) (c : CtxId) : (s.announceStep c).src = s.src := by unfold State.announceStep; split <;> rfl
@[simp] theorem State.announceStep_dst (s : State) (c : CtxId) : (s.announceStep c).dst = s.dst := by unfold State.announceStep; split <;> rfl
@[simp] theorem State.announceStep_len (s : State) (c : CtxId) : (s.announceStep c).len = s.len := by unfold State.announceStep; split <;> rfl
@[simp] theorem State.announceStep_value (s : State) (c : CtxId) : (s.announceStep c).value = s.value := by unfold State.announceStep; split <;> rfl
@[simp] theorem State.announceStep_result (s : State) (c : CtxId) : (s.announceStep c).result = s.result := by unfold State.announceStep; split <;> rfl
@[simp] theorem State.announceStep_keyLo (s : State) (c : CtxId) : (s.announceStep c).keyLo = s.keyLo := by unfold State.announceStep; split <;> rfl
@[simp] theorem State.announceStep_keyHi (s : State) (c : CtxId) : (s.announceStep c).keyHi = s.keyHi := by unfold State.announceStep; split <;> rfl
@[simp] theorem State.announceStep_version (s : State) (c : CtxId) : (s.announceStep c).version = s.version := by unfold State.announceStep; split <;> rfl
@[simp] theorem State.announceStep_ctx0 (s : State) (c : CtxId) : (s.announceStep c).ctx0 = s.ctx0 := by unfold State.announceStep; split <;> rfl
@[simp] theorem State.announceStep_ctx1 (s : State) (c : CtxId) : (s.announceStep c).ctx1 = s.ctx1 := by unfold State.announceStep; split <;> rfl
@[simp] theorem State.announceStep_mem (s : State) (c : CtxId) : (s.announceStep c).mem = s.mem := by unfold State.announceStep; split <;> rfl
@[simp] theorem State.announceStep_inputs (s : State) (c : CtxId) : (s.announceStep c).inputs = s.inputs := by unfold State.announceStep; split <;> rfl
@[simp] theorem State.announceStep_readData (s : State) (c : CtxId) : (s.announceStep c).readData = s.readData := by unfold State.announceStep; split <;> rfl
@[simp] theorem State.announceStep_ctx (s : State) (c c' : CtxId) : (s.announceStep c).ctx c' = s.ctx c' := by
  cases c' <;> simp

/-! ## Resets -/

@[simp] theorem softReset_inputs (P : Params) (s : State) : (softReset P s).inputs = s.inputs := rfl
@[simp] theorem softReset_readData (P : Params) (s : State) : (softReset P s).readData = s.readData := rfl
@[simp] theorem softReset_mem (P : Params) (s : State) :
    (softReset P s).mem = s.mem.forget s.dstOff (pendingDestLen P s) := rfl
@[simp] theorem softReset_busy (P : Params) (s : State) : (softReset P s).busy = false := rfl
@[simp] theorem softReset_ctx (P : Params) (s : State) (c : CtxId) : (softReset P s).ctx c = Context.reset := by cases c <;> rfl
@[simp] theorem powerOnReset_mem (s : State) : (powerOnReset s).mem = [] := rfl
@[simp] theorem powerOnReset_inputs (s : State) : (powerOnReset s).inputs = s.inputs := rfl
@[simp] theorem powerOnReset_busy (s : State) : (powerOnReset s).busy = false := rfl
@[simp] theorem powerOnReset_ctx (s : State) (c : CtxId) : (powerOnReset s).ctx c = Context.reset := by cases c <;> rfl

end Sys2Proof.Machine
end

