-- ==== Sys2Proof/Laws/Ops.lean ====
section
/-! SUPPORT. For each shared operation, once, everything it can do. -/

namespace Sys2Proof.Machine

/-! ## Ending a command -/

theorem endWith_next (code : Code) (s t : State) : endWith code s = .next t ↔ t = s.finish code 0 := by
  simp [endWith, eq_comm]

theorem endOk_next (r : Word) (s t : State) : endOk r s = .next t ↔ t = s.finish .ok r := by
  simp [endOk, eq_comm]

@[simp] theorem checked_ok (s : State) (rest : Unit → Host.Outcome State Fault Refusal) :
    checked .ok s rest = rest () := rfl

theorem checked_failed (check : Code) (s : State) (rest : Unit → Host.Outcome State Fault Refusal) (h : check ≠ .ok) :
    checked check s rest = .next (s.finish check 0) := by
  cases check <;> first | exact absurd rfl h | rfl

theorem checked_next (check : Code) (s t : State) (rest : Unit → Host.Outcome State Fault Refusal) :
    checked check s rest = .next t ↔
      (check ≠ .ok ∧ t = s.finish check 0) ∨ (check = .ok ∧ rest () = .next t) := by
  by_cases h : check = .ok
  · subst h
    simp
  · simp [checked_failed _ _ _ h, h, eq_comm]

theorem withBytes_some (s : State) (off n : Nat) (rest : List Byte → Host.Outcome State Fault Refusal) (bs : List Byte)
    (h : s.mem.readBytes off n = some bs) : withBytes s off n rest = rest bs := by
  simp [withBytes, h]

theorem withBytes_none (s : State) (off n : Nat) (rest : List Byte → Host.Outcome State Fault Refusal)
    (h : s.mem.readBytes off n = none) : withBytes s off n rest = .fault .uninit := by
  simp [withBytes, h]

theorem withBytes_next (s t : State) (off n : Nat) (rest : List Byte → Host.Outcome State Fault Refusal) :
    withBytes s off n rest = .next t ↔ ∃ bs, s.mem.readBytes off n = some bs ∧ rest bs = .next t := by
  cases h : s.mem.readBytes off n <;> simp [withBytes, h]

/-! ## Contexts and stores that change nothing -/

@[simp] theorem State.setCtx_self (s : State) (c : CtxId) : s.setCtx c (s.ctx c) = s := by
  cases c <;> rfl

@[simp] theorem State.store_nil (s : State) (off : Nat) : s.store off [] = s := rfl

theorem State.setVectorOf_eq (s : State) (c : CtxId) (v : Word) :
    s.setVectorOf c v = s.setCtx c { s.ctx c with vector := v } := rfl

/-! ## Checks -/

@[simp] theorem firstFailure_nil : firstFailure [] = .ok := rfl

theorem firstFailure_cons (b : Bool) (code : Code) (rest : List (Bool × Code)) :
    firstFailure ((b, code) :: rest) = if b then firstFailure rest else code := rfl

theorem inBuf_iff (P : Params) (off n : Nat) : inBuf P off n = true ↔ off + n ≤ P.bufBytes := by
  simp [inBuf]

theorem ivShuffleCheck_ok (c : CtxId) (s : State) : ivShuffleCheck c s = .ok ↔ (s.ctx c).handshaken = true := by
  simp [ivShuffleCheck, firstFailure_cons, readyIv]

theorem hdrBuildCheck_ok (P : Params) (c : CtxId) (s : State) :
    hdrBuildCheck P c s = .ok ↔
      (s.ctx c).handshaken = true ∧ s.lenNat ≤ maxBody ∧ s.dstOff + hdrBytes ≤ P.bufBytes := by
  simp only [hdrBuildCheck, firstFailure_cons, firstFailure_nil, readyIv, inBuf]
  split <;> simp_all
  split <;> simp_all

theorem pktLenCheck_ok (P : Params) (s : State) : pktLenCheck P s = .ok ↔ s.srcOff + hdrBytes ≤ P.bufBytes := by
  simp [pktLenCheck, firstFailure_cons, inBuf]

theorem xformCheck_ok (P : Params) (c : CtxId) (s : State) :
    xformCheck P c s = .ok ↔
      readyXf s c = true ∧ s.srcOff + s.lenNat ≤ P.bufBytes ∧ s.dstOff + s.lenNat ≤ P.bufBytes := by
  simp only [xformCheck, firstFailure_cons, firstFailure_nil, inBuf]
  split <;> simp_all
  split <;> simp_all

theorem encryptCheck_ok (P : Params) (c : CtxId) (s : State) :
    encryptCheck P c s = .ok ↔
      readyXf s c = true ∧ s.lenNat ≤ maxBody ∧ s.srcOff + s.lenNat ≤ P.bufBytes ∧
        s.dstOff + (hdrBytes + s.lenNat) ≤ P.bufBytes := by
  simp only [encryptCheck, firstFailure_cons, firstFailure_nil, inBuf]
  split <;> simp_all
  split <;> simp_all
  split <;> simp_all

theorem decryptCheck_ok (P : Params) (c : CtxId) (s : State) :
    decryptCheck P c s = .ok ↔
      readyXf s c = true ∧ hdrBytes ≤ s.lenNat ∧ s.srcOff + s.lenNat ≤ P.bufBytes := by
  simp only [decryptCheck, firstFailure_cons, firstFailure_nil, inBuf]
  split <;> simp_all
  split <;> simp_all

theorem bodyCheck_ok (P : Params) (hdr m : Nat) (s : State) :
    bodyCheck P hdr m s = .ok ↔ hdr + m ≤ s.lenNat ∧ s.dstOff + m ≤ P.bufBytes := by
  simp only [bodyCheck, firstFailure_cons, firstFailure_nil, inBuf]
  split <;> simp_all

theorem hsStripCheck_ok (P : Params) (s : State) :
    hsStripCheck P s = .ok ↔ prefixBytes ≤ s.lenNat ∧ s.srcOff + s.lenNat ≤ P.bufBytes := by
  simp only [hsStripCheck, firstFailure_cons, firstFailure_nil, inBuf]
  split <;> simp_all

theorem shandaCheck_ok (P : Params) (s : State) :
    shandaCheck P s = .ok ↔ s.srcOff + s.lenNat ≤ P.bufBytes ∧ s.dstOff + s.lenNat ≤ P.bufBytes := by
  simp only [shandaCheck, firstFailure_cons, firstFailure_nil, inBuf]
  split <;> simp_all

/-! ## Host accesses -/

/-- A register write: ignored, dropped, or put. -/
theorem State.writeRegAt_cases (P : Params) (s : State) (off : Nat) (v : Word) :
    s.writeRegAt P off v = s ∨ (s.busy = true ∧ s.writeRegAt P off v = s.dropWrite) ∨
      ∃ r, regAt off = some r ∧ (s.busy = false ∨ heldWhileBusy r = false) ∧ s.writeRegAt P off v = s.putReg P v r := by
  unfold State.writeRegAt
  cases h : regAt off with
  | none => exact Or.inl rfl
  | some r =>
    simp only [State.writeReg]
    by_cases hb : s.busy = true ∧ heldWhileBusy r = true
    · exact Or.inr (Or.inl ⟨hb.1, by simp [hb.1, hb.2]⟩)
    · refine Or.inr (Or.inr ⟨r, rfl, ?_, ?_⟩)
      · cases hs : s.busy <;> cases hr : heldWhileBusy r <;> simp_all
      · have : (s.busy && heldWhileBusy r) = false := by
          cases hs : s.busy <;> cases hr : heldWhileBusy r <;> simp_all
        simp [this]

/-- If a host access answers a next state, it is a register read, a register write, a `BUF` read or a `BUF` write. -/
theorem hostAccess_next (P : Params) (a : Access) (s t : State) (h : hostAccess P a s = .next t) :
    (∃ off, a = .read .w32 off ∧ off < regFileEnd ∧ off % 4 = 0 ∧ t = s.answer (s.readRegAt off)) ∨
    (∃ off v, a = .write .w32 off v ∧ off < regFileEnd ∧ off % 4 = 0 ∧ t = s.writeRegAt P off v) ∨
    (∃ w off bs, a = .read w off ∧ P.bufBytes ≤ off ∧ off < 2 * P.bufBytes ∧ bufAccessOk w (off - P.bufBytes) = true ∧
      s.busy = false ∧ s.mem.readBytes (off - P.bufBytes) (widthBytes w) = some bs ∧ t = s.answer (le32 bs 0)) ∨
    (∃ w off v, a = .write w off v ∧ P.bufBytes ≤ off ∧ off < 2 * P.bufBytes ∧
      bufAccessOk w (off - P.bufBytes) = true ∧ s.busy = false ∧
      t = s.store (off - P.bufBytes) ((bytes32 v).take (widthBytes w))) := by
  simp only [hostAccess] at h
  split at h
  · rename_i hoff
    split at h
    · rename_i hok
      simp only [regAccessOk, Bool.and_eq_true, decide_eq_true_eq] at hok
      cases a with
      | read w off =>
        obtain ⟨rfl, h4⟩ := hok
        simp only [regAccess, Host.Outcome.next.injEq] at h
        exact Or.inl ⟨off, rfl, hoff, h4, h.symm⟩
      | write w off v =>
        obtain ⟨rfl, h4⟩ := hok
        simp only [regAccess, Host.Outcome.next.injEq] at h
        exact Or.inr (Or.inl ⟨off, v, rfl, hoff, h4, h.symm⟩)
    · cases h
  · split at h
    · cases h
    · rename_i hlo
      split at h
      · rename_i hhi
        split at h
        · rename_i hok
          split at h
          · cases h
          · rename_i hb
            cases a with
            | read w off =>
              simp only [bufAccess, withBytes_next, Host.Outcome.next.injEq] at h
              obtain ⟨bs, hbs, rfl⟩ := h
              exact Or.inr (Or.inr (Or.inl ⟨w, off, bs, rfl, Nat.le_of_not_lt hlo, hhi, hok, by simpa using hb, hbs, rfl⟩))
            | write w off v =>
              simp only [bufAccess, Host.Outcome.next.injEq] at h
              exact Or.inr (Or.inr (Or.inr ⟨w, off, v, rfl, Nat.le_of_not_lt hlo, hhi, hok, by simpa using hb, h.symm⟩))
        · cases h
      · cases h

/-! ## One step -/

/-- If the engine's step answers a next state, it is idle, or ends a word that is no command, or runs the decoded one. -/
theorem engineStep_next (P : Params) (run : Instr → State → Host.Outcome State Fault Refusal) (s t : State)
    (h : engineStep P run s = .next t) :
    (s.busy = false ∧ t = s) ∨
    (s.busy = true ∧ decodeWord P s.cmd = .error .illegalOp ∧ t = s.finish .illegalOp 0) ∨
    (s.busy = true ∧ decodeWord P s.cmd = .error .reservedBits ∧ t = s.finish .reservedBits 0) ∨
    (s.busy = true ∧ ∃ i, decodeWord P s.cmd = .ok i ∧ run i s = .next t) := by
  unfold engineStep at h
  split at h
  · rename_i hb
    unfold complete at h
    split at h
    · rename_i i hd
      exact Or.inr (Or.inr (Or.inr ⟨hb, i, hd, h⟩))
    · rename_i hd
      exact Or.inr (Or.inl ⟨hb, hd, (endWith_next ..).mp h⟩)
    · rename_i hd
      exact Or.inr (Or.inr (Or.inl ⟨hb, hd, (endWith_next ..).mp h⟩))
  · rename_i hb
    simp only [Host.Outcome.next.injEq] at h
    exact Or.inl ⟨by simpa using hb, h.symm⟩

/-- If a step answers a next state, it is an engine step, a host access or a power-on reset, on the state without the
event it takes. -/
theorem stepOn_next (P : Params) (run : Instr → State → Host.Outcome State Fault Refusal) (s t : State)
    (h : stepOn P run s = .next t) :
    ∃ rest, (s.inputs = [] ∧ rest = [] ∨ s.inputs = .engine :: rest) ∧
        engineStep P run { s with inputs := rest } = .next t ∨
      (∃ a, s.inputs = .bus a :: rest ∧ hostAccess P a { s with inputs := rest } = .next t) ∨
      s.inputs = .powerOn :: rest ∧ t = powerOnReset { s with inputs := rest } := by
  unfold stepOn at h
  split at h
  · rename_i hi
    refine ⟨[], Or.inl ⟨Or.inl ⟨hi, rfl⟩, ?_⟩⟩
    rw [show { s with inputs := [] } = s by rw [← hi]]
    exact h
  · rename_i rest hi
    exact ⟨rest, Or.inl ⟨Or.inr hi, h⟩⟩
  · rename_i a rest hi
    exact ⟨rest, Or.inr (Or.inl ⟨a, hi, h⟩)⟩
  · rename_i rest hi
    simp only [Host.Outcome.next.injEq] at h
    exact ⟨rest, Or.inr (Or.inr ⟨hi, h.symm⟩)⟩

end Sys2Proof.Machine
end

