-- ==== Sys2Proof/Laws/Commands.lean ====
section
/-! SUPPORT. For each command, everything it can do when it answers a next state: end with a failing check's code, or
commit its writes. -/

namespace Sys2Proof.Machine

theorem execIvShuffle_next (P : Params) (c : CtxId) (s t : State) (h : execIvShuffle c s P = .next t) :
    (ivShuffleCheck c s ≠ .ok ∧ t = s.finish (ivShuffleCheck c s) 0) ∨
    (ivShuffleCheck c s = .ok ∧
      t = (s.setVectorOf c (shuffle P (s.ctx c).vector)).finish .ok (shuffle P (s.ctx c).vector)) := by
  simpa only [execIvShuffle, checked_next, endOk_next] using h

theorem execHdrBuild_next (P : Params) (c : CtxId) (d : Dir) (s t : State) (h : execHdrBuild c d s P = .next t) :
    (hdrBuildCheck P c s ≠ .ok ∧ t = s.finish (hdrBuildCheck P c s) 0) ∨
    (hdrBuildCheck P c s = .ok ∧
      t = (s.store s.dstOff (headerBytes (header (s.ctx c).version (s.ctx c).vector (loHalf s.len) d))).finish .ok
        (headerWord (header (s.ctx c).version (s.ctx c).vector (loHalf s.len) d))) := by
  simpa only [execHdrBuild, checked_next, endOk_next] using h

theorem execPktLen_next (P : Params) (s t : State) (h : execPktLen s P = .next t) :
    (pktLenCheck P s ≠ .ok ∧ t = s.finish (pktLenCheck P s) 0) ∨
    (pktLenCheck P s = .ok ∧ ∃ hdr, s.mem.readBytes s.srcOff hdrBytes = some hdr ∧
      t = s.finish .ok ((packetLength hdr).setWidth 32)) := by
  simpa only [execPktLen, checked_next, withBytes_next, endOk_next] using h

theorem execXform_next (P : Params) (c : CtxId) (s t : State) (h : execXform c s P = .next t) :
    (xformCheck P c s ≠ .ok ∧ t = s.finish (xformCheck P c s) 0) ∨
    (xformCheck P c s = .ok ∧ ∃ body, s.mem.readBytes s.srcOff s.lenNat = some body ∧
      t = ((s.setVectorOf c (shuffle P (s.ctx c).vector)).store s.dstOff
        (xform P (s.ctx c).ek (s.ctx c).vector body)).finish .ok s.len) := by
  simpa only [execXform, checked_next, withBytes_next, endOk_next] using h

theorem execEncrypt_next (P : Params) (c : CtxId) (d : Dir) (s t : State) (h : execEncrypt c d s P = .next t) :
    (encryptCheck P c s ≠ .ok ∧ t = s.finish (encryptCheck P c s) 0) ∨
    (encryptCheck P c s = .ok ∧ ∃ body, s.mem.readBytes s.srcOff s.lenNat = some body ∧
      t = (((s.setVectorOf c (shuffle P (s.ctx c).vector)).store s.dstOff
        (encryptFrame P (s.ctx c) d body)).finish .ok (s.len + 4)).announceStep c) := by
  simpa only [execEncrypt, checked_next, withBytes_next, Host.Outcome.next.injEq, eq_comm (b := t)] using h

theorem execDecrypt_next (P : Params) (c : CtxId) (s t : State) (h : execDecrypt c s P = .next t) :
    (decryptCheck P c s ≠ .ok ∧ t = s.finish (decryptCheck P c s) 0) ∨
    (decryptCheck P c s = .ok ∧ ∃ hdr, s.mem.readBytes s.srcOff hdrBytes = some hdr ∧
      ((bodyCheck P hdrBytes (packetLength hdr).toNat s ≠ .ok ∧
          t = s.finish (bodyCheck P hdrBytes (packetLength hdr).toNat s) 0) ∨
        (bodyCheck P hdrBytes (packetLength hdr).toNat s = .ok ∧
          ∃ body, s.mem.readBytes (s.srcOff + hdrBytes) (packetLength hdr).toNat = some body ∧
            t = ((s.setVectorOf c (shuffle P (s.ctx c).vector)).store s.dstOff
              (decryptBody P (s.ctx c) body)).finish .ok ((packetLength hdr).setWidth 32)))) := by
  simpa only [execDecrypt, checked_next, withBytes_next, endOk_next] using h

theorem execHsStrip_next (P : Params) (s t : State) (h : execHsStrip s P = .next t) :
    (hsStripCheck P s ≠ .ok ∧ t = s.finish (hsStripCheck P s) 0) ∨
    (hsStripCheck P s = .ok ∧ ∃ pre, s.mem.readBytes s.srcOff prefixBytes = some pre ∧
      ((bodyCheck P prefixBytes (le16 pre 0).toNat s ≠ .ok ∧
          t = s.finish (bodyCheck P prefixBytes (le16 pre 0).toNat s) 0) ∨
        (bodyCheck P prefixBytes (le16 pre 0).toNat s = .ok ∧
          ∃ body, s.mem.readBytes (s.srcOff + prefixBytes) (le16 pre 0).toNat = some body ∧
            t = (s.store s.dstOff body).finish .ok ((le16 pre 0).setWidth 32)))) := by
  simpa only [execHsStrip, checked_next, withBytes_next, endOk_next] using h

theorem execShandaEnc_next (P : Params) (s t : State) (h : execShandaEnc s P = .next t) :
    (shandaCheck P s ≠ .ok ∧ t = s.finish (shandaCheck P s) 0) ∨
    (shandaCheck P s = .ok ∧ ∃ d, s.mem.readBytes s.srcOff s.lenNat = some d ∧
      t = (s.store s.dstOff (shandaEnc d)).finish .ok s.len) := by
  simpa only [execShandaEnc, checked_next, withBytes_next, endOk_next] using h

theorem execShandaDec_next (P : Params) (s t : State) (h : execShandaDec s P = .next t) :
    (shandaCheck P s ≠ .ok ∧ t = s.finish (shandaCheck P s) 0) ∨
    (shandaCheck P s = .ok ∧ ∃ d, s.mem.readBytes s.srcOff s.lenNat = some d ∧
      t = (s.store s.dstOff (shandaDec d)).finish .ok s.len) := by
  simpa only [execShandaDec, checked_next, withBytes_next, endOk_next] using h

/-! ## Lengths of what a command writes -/

@[simp] theorem subADecWalk_length (k L : Byte) (d : List Byte) : (subADecWalk k L d).length = d.length := by
  induction d generalizing k L <;> simp_all [subADecWalk]

@[simp] theorem subBDecWalk_length (k L : Byte) (d : List Byte) : (subBDecWalk k L d).length = d.length := by
  induction d generalizing k L <;> simp_all [subBDecWalk]

@[simp] theorem subAEncWalk_length (k L : Byte) (d : List Byte) : (subAEncWalk k L d).length = d.length := by
  induction d generalizing k L <;> simp_all [subAEncWalk]

@[simp] theorem subBEncWalk_length (k L : Byte) (d : List Byte) : (subBEncWalk k L d).length = d.length := by
  induction d generalizing k L <;> simp_all [subBEncWalk]

theorem repeatPass_length (pass : List Byte → List Byte) (hp : ∀ d, (pass d).length = d.length) (n : Nat)
    (d : List Byte) : (repeatPass pass n d).length = d.length := by
  induction n generalizing d <;> simp_all [repeatPass]

@[simp] theorem shandaDec_length (d : List Byte) : (shandaDec d).length = d.length :=
  repeatPass_length _ (fun x => by simp [subBDec, subADec]) _ _

@[simp] theorem shandaEnc_length (d : List Byte) : (shandaEnc d).length = d.length :=
  repeatPass_length _ (fun x => by simp [subAEnc, subBEnc]) _ _

@[simp] theorem xformWalk_length (P : Params) (ek : ExpandedKey) (v : Word) (limit o : Nat) (W : Block)
    (data : List Byte) : (xformWalk P ek v limit o W data).length = data.length := by
  induction data generalizing limit o W <;> simp_all [xformWalk]

@[simp] theorem xform_length (P : Params) (ek : ExpandedKey) (v : Word) (data : List Byte) :
    (xform P ek v data).length = data.length := xformWalk_length ..

@[simp] theorem headerBytes_length (h : Half × Half) : (headerBytes h).length = hdrBytes := rfl

@[simp] theorem encryptFrame_length (P : Params) (k : Context) (d : Dir) (body : List Byte) :
    (encryptFrame P k d body).length = hdrBytes + body.length := by
  simp only [encryptFrame, List.length_append, headerBytes_length, xform_length]
  split <;> simp

@[simp] theorem decryptBody_length (P : Params) (k : Context) (body : List Byte) :
    (decryptBody P k body).length = body.length := by
  simp only [decryptBody]
  split <;> simp

/-! ## All commands at once -/

/-- What a command's success does to the context record it names (R46, R122, R141, R150). -/
def ContextChange (P : Params) (i : Instr) (s : State) (c : CtxId) (k : Context) : Prop :=
  k = s.ctx c ∨
  ((i = .ivShuffle c ∨ i = .xform c ∨ (∃ d, i = .encrypt c d) ∨ i = .decrypt c) ∧ (s.ctx c).handshaken = true ∧
    k = { s.ctx c with vector := shuffle P (s.ctx c).vector }) ∨
  (i = .setVector c ∧ k = { s.ctx c with vector := s.value, handshaken := true }) ∨
  (i = .ctxInit c ∧ k = { s.ctx c with
    ek := expandKey s.stagedKey, version := s.version, keyed := true, handshaken := false, vector := 0 })

/-- The state after a command that ends OK, but for the announce step: the context record, the bytes written from `DST`
on, and `RESULT`. -/
def committed (s : State) (c : CtxId) (k : Context) (bs : List Byte) (r : Word) : State :=
  ((s.setCtx c k).store s.dstOff bs).finish .ok r

/-- If a command answers a next state, it ended with an error code and nothing else, or it ended OK: it changed one
context record as its rule says, wrote as many bytes from `DST` on as `destLen` says, inside `BUF`, and announced only
if it is an ENCRYPT. -/
theorem execWith_next (P : Params) (i : Instr) (s t : State) (h : execWith P i s = .next t) :
    (∃ code, code ≠ .ok ∧ t = s.finish code 0 ∧ destLen P s i = 0) ∨
    (∃ c k bs r, ContextChange P i s c k ∧ bs.length = destLen P s i ∧ (bs ≠ [] → s.dstOff + bs.length ≤ P.bufBytes) ∧
      (t = committed s c k bs r ∨ (∃ d, i = .encrypt c d) ∧ t = (committed s c k bs r).announceStep c)) := by
  have keep : ∀ r, s.finish .ok r = committed s .ctx0 (s.ctx .ctx0) [] r := fun r => by
    simp only [committed, State.setCtx_self, State.store_nil]
  have keepStore : ∀ bs r, (s.store s.dstOff bs).finish .ok r = committed s .ctx0 (s.ctx .ctx0) bs r := fun bs r => by
    simp only [committed, State.setCtx_self]
  cases i with
  | nop =>
    refine Or.inr ⟨.ctx0, s.ctx .ctx0, [], 0, Or.inl rfl, rfl, fun h => absurd rfl h, Or.inl ?_⟩
    rw [(endOk_next 0 s t).mp h, keep]
  | ctxInit c =>
    exact Or.inr ⟨c, _, [], 0, Or.inr (Or.inr (Or.inr ⟨rfl, rfl⟩)), rfl, fun h => absurd rfl h,
      Or.inl ((endOk_next 0 _ t).mp h)⟩
  | setVector c =>
    exact Or.inr ⟨c, _, [], s.value, Or.inr (Or.inr (Or.inl ⟨rfl, rfl⟩)), rfl, fun h => absurd rfl h,
      Or.inl ((endOk_next s.value _ t).mp h)⟩
  | ivShuffle c =>
    rcases execIvShuffle_next P c s t h with ⟨hc, ht⟩ | ⟨hc, ht⟩
    · exact Or.inl ⟨_, hc, ht, rfl⟩
    · exact Or.inr ⟨c, _, [], _, Or.inr (Or.inl ⟨Or.inl rfl, (ivShuffleCheck_ok c s).mp hc, rfl⟩), rfl,
        fun h => absurd rfl h, Or.inl ht⟩
  | hdrBuild c d =>
    rcases execHdrBuild_next P c d s t h with ⟨hc, ht⟩ | ⟨hc, ht⟩
    · exact Or.inl ⟨_, hc, ht, by simp [destLen, destLenIf, hc]⟩
    · refine Or.inr ⟨.ctx0, s.ctx .ctx0, _, _, Or.inl rfl, ?_, fun _ => ?_, Or.inl (ht.trans (keepStore _ _))⟩
      · simp [destLen, destLenIf, hc]
      · rw [headerBytes_length]
        exact ((hdrBuildCheck_ok P c s).mp hc).2.2
  | pktLen =>
    rcases execPktLen_next P s t h with ⟨hc, ht⟩ | ⟨hc, hdr, -, ht⟩
    · exact Or.inl ⟨_, hc, ht, rfl⟩
    · exact Or.inr ⟨.ctx0, s.ctx .ctx0, [], _, Or.inl rfl, rfl, fun h => absurd rfl h, Or.inl (ht.trans (keep _))⟩
  | xform c =>
    rcases execXform_next P c s t h with ⟨hc, ht⟩ | ⟨hc, body, hb, ht⟩
    · exact Or.inl ⟨_, hc, ht, by simp [destLen, destLenIf, hc]⟩
    · obtain ⟨hr, -, hd⟩ := (xformCheck_ok P c s).mp hc
      have hl := Memory.readBytes_length _ _ _ _ hb
      refine Or.inr ⟨c, _, _, _, Or.inr (Or.inl ⟨Or.inr (Or.inl rfl), ?_, rfl⟩), ?_, fun _ => ?_, Or.inl ht⟩
      · exact (Bool.and_eq_true_iff.mp hr).2
      · simp [destLen, destLenIf, hc, hl]
      · simpa [hl] using hd
  | encrypt c d =>
    rcases execEncrypt_next P c d s t h with ⟨hc, ht⟩ | ⟨hc, body, hb, ht⟩
    · exact Or.inl ⟨_, hc, ht, by simp [destLen, destLenIf, hc]⟩
    · obtain ⟨hr, -, -, hd⟩ := (encryptCheck_ok P c s).mp hc
      have hl := Memory.readBytes_length _ _ _ _ hb
      refine Or.inr ⟨c, _, _, _, Or.inr (Or.inl ⟨Or.inr (Or.inr (Or.inl ⟨d, rfl⟩)), ?_, rfl⟩), ?_, fun _ => ?_,
        Or.inr ⟨⟨d, rfl⟩, ht⟩⟩
      · exact (Bool.and_eq_true_iff.mp hr).2
      · simp [destLen, destLenIf, hc, hl]
      · simpa [hl] using hd
  | decrypt c =>
    rcases execDecrypt_next P c s t h with ⟨hc, ht⟩ | ⟨hc, hdr, hh, ⟨hm, ht⟩ | ⟨hm, body, hb, ht⟩⟩
    · exact Or.inl ⟨_, hc, ht, by simp [destLen, destLenIf, hc]⟩
    · exact Or.inl ⟨_, hm, ht, by simp [destLen, destLenIf, bodyDestLen, hh, hm]⟩
    · have hl := Memory.readBytes_length _ _ _ _ hb
      refine Or.inr ⟨c, _, _, _, Or.inr (Or.inl ⟨Or.inr (Or.inr (Or.inr rfl)), ?_, rfl⟩), ?_, fun _ => ?_, Or.inl ht⟩
      · exact (Bool.and_eq_true_iff.mp ((decryptCheck_ok P c s).mp hc).1).2
      · simp [destLen, destLenIf, bodyDestLen, hc, hh, hm, hl]
      · simpa [hl] using ((bodyCheck_ok ..).mp hm).2
  | hsStrip =>
    rcases execHsStrip_next P s t h with ⟨hc, ht⟩ | ⟨hc, pre, hp, ⟨hm, ht⟩ | ⟨hm, body, hb, ht⟩⟩
    · exact Or.inl ⟨_, hc, ht, by simp [destLen, destLenIf, hc]⟩
    · exact Or.inl ⟨_, hm, ht, by simp [destLen, destLenIf, bodyDestLen, hp, hm]⟩
    · have hl := Memory.readBytes_length _ _ _ _ hb
      refine Or.inr ⟨.ctx0, s.ctx .ctx0, _, _, Or.inl rfl, ?_, fun _ => ?_, Or.inl (ht.trans (keepStore _ _))⟩
      · simp [destLen, destLenIf, bodyDestLen, hc, hp, hm, hl]
      · simpa [hl] using ((bodyCheck_ok ..).mp hm).2
  | shandaEnc =>
    rcases execShandaEnc_next P s t h with ⟨hc, ht⟩ | ⟨hc, body, hb, ht⟩
    · exact Or.inl ⟨_, hc, ht, by simp [destLen, destLenIf, hc]⟩
    · have hl := Memory.readBytes_length _ _ _ _ hb
      refine Or.inr ⟨.ctx0, s.ctx .ctx0, _, _, Or.inl rfl, ?_, fun _ => ?_, Or.inl (ht.trans (keepStore _ _))⟩
      · simp [destLen, destLenIf, hc, hl]
      · simpa [hl] using ((shandaCheck_ok P s).mp hc).2
  | shandaDec =>
    rcases execShandaDec_next P s t h with ⟨hc, ht⟩ | ⟨hc, body, hb, ht⟩
    · exact Or.inl ⟨_, hc, ht, by simp [destLen, destLenIf, hc]⟩
    · have hl := Memory.readBytes_length _ _ _ _ hb
      refine Or.inr ⟨.ctx0, s.ctx .ctx0, _, _, Or.inl rfl, ?_, fun _ => ?_, Or.inl (ht.trans (keepStore _ _))⟩
      · simp [destLen, destLenIf, hc, hl]
      · simpa [hl] using ((shandaCheck_ok P s).mp hc).2

end Sys2Proof.Machine
end

