-- ==== Sys2Proof/Laws/Encoding.lean ====
section
/-! SUPPORT. The bits of a command word. -/

namespace Sys2Proof

/-- Each bit of a word made from its fields. -/
theorem cmdWord_getLsbD (f : Cmd32) (i : Nat) :
    (cmdWord f).getLsbD i =
      if i < 8 then f.op.getLsbD i else if i = 8 then f.ctx else if i = 9 then f.dir
      else f.reserved.getLsbD (i - 10) := by
  change (f.reserved ++ (BitVec.ofBool f.dir ++ (BitVec.ofBool f.ctx ++ f.op)) :
    BitVec (22 + (1 + (1 + 8)))).getLsbD i = _
  simp only [BitVec.getLsbD_append, BitVec.getLsbD_ofBool]
  by_cases h : i < 8
  · simp [h, show i < 1 + (1 + 8) by omega, show i < 1 + 8 by omega]
  by_cases h8 : i = 8
  · subst h8
    simp
  by_cases h9 : i = 9
  · subst h9
    simp
  · rw [if_neg (by omega), if_neg h, if_neg h8, if_neg h9, show i - (1 + (1 + 8)) = i - 10 by omega]

end Sys2Proof
end

