-- ==== Sys2Proof/Laws/PerInstr.lean ====
section
/-! SUPPORT. Statements about every command as syntax, one lemma per constructor. -/

open Sys2Proof

namespace Sys2Proof.Laws

/-- Availability turns on one parameter alone. -/
theorem eq_of_hasShanda (f g : Params → Bool) (k l : Bool → Bool) (hf : ∀ P, f P = k P.hasShanda)
    (hg : ∀ P, g P = l P.hasShanda) (h : ∀ b, k b = l b) (P : Params) : f P = g P := by
  rw [hf, hg, h]

end Sys2Proof.Laws

namespace Sys2Proof.Laws.WordForm

/-- The word of a command is a well-formed word exactly on the implementations that have the command (R94, R96), and every
bit the command ignores is 0 in it (log 10). -/
def Statement (i : Instr) : Prop :=
  (∀ P : Params, (cmdFields (encode i)).wellFormed P = i.wellFormed P) ∧ encode i &&& ~~~i.encodingMask = 0

theorem nop : Statement .nop := by
  exact ⟨fun _ => rfl, by decide⟩

theorem ctxInit (c : CtxId) : Statement (.ctxInit c) := by
  cases c <;> exact ⟨fun _ => rfl, by decide⟩

theorem setVector (c : CtxId) : Statement (.setVector c) := by
  cases c <;> exact ⟨fun _ => rfl, by decide⟩

theorem ivShuffle (c : CtxId) : Statement (.ivShuffle c) := by
  cases c <;> exact ⟨fun _ => rfl, by decide⟩

theorem hdrBuild (c : CtxId) (d : Dir) : Statement (.hdrBuild c d) := by
  cases c <;> cases d <;> exact ⟨fun _ => rfl, by decide⟩

theorem pktLen : Statement .pktLen := by
  exact ⟨fun _ => rfl, by decide⟩

theorem xform (c : CtxId) : Statement (.xform c) := by
  cases c <;> exact ⟨fun _ => rfl, by decide⟩

theorem encrypt (c : CtxId) (d : Dir) : Statement (.encrypt c d) := by
  cases c <;> cases d <;> exact ⟨fun _ => rfl, by decide⟩

theorem decrypt (c : CtxId) : Statement (.decrypt c) := by
  cases c <;> exact ⟨fun _ => rfl, by decide⟩

theorem hsStrip : Statement .hsStrip := by
  exact ⟨fun _ => rfl, by decide⟩

theorem shandaEnc : Statement .shandaEnc := by
  exact ⟨eq_of_hasShanda _ _ (fun b => true && b && true) (fun b => b) (fun _ => rfl) (fun _ => rfl) (by decide), by decide⟩

theorem shandaDec : Statement .shandaDec := by
  exact ⟨eq_of_hasShanda _ _ (fun b => true && b && true) (fun b => b) (fun _ => rfl) (fun _ => rfl) (by decide), by decide⟩

end Sys2Proof.Laws.WordForm
end

