-- ==== Sys2Proof/Laws/Step.lean ====
section
/-! SUPPORT. What one step is, by the event it takes. -/

namespace Sys2Proof.Machine

/-- `exec` is every command's meaning on the default implementation. -/
theorem exec_eq_execWith (i : Instr) (s : State) : exec i s = execWith Config.params i s := by
  cases i <;> rfl

/-- The two dispatchers give the same machine. -/
theorem step_eq_stepOn (s : State) : step s = stepOn Config.params (execWith Config.params) s := by
  rw [step, show exec = execWith Config.params from funext fun i => funext fun t => exec_eq_execWith i t]

/-- At the engine's turn a step is the engine's step. -/
theorem step_engineTurn (s : State) (rest : List Event) (h : s.engineTurn rest) :
    step s = engineStep Config.params exec { s with inputs := rest } := by
  rcases h with ⟨hi, rfl⟩ | hi
  · rw [show { s with inputs := [] } = s by rw [← hi]]
    simp only [step, stepOn, hi]
  · simp only [step, stepOn, hi]

/-- At a host access a step is that access. -/
theorem step_facing (s : State) (a : Access) (rest : List Event) (h : s.facing a rest) :
    step s = hostAccess Config.params a { s with inputs := rest } := by
  simp only [step, stepOn, show s.inputs = .bus a :: rest from h]

/-- A register write that is aligned and inside the register file. -/
theorem hostAccess_writeReg (P : Params) (off : Nat) (v : Word) (s : State) (h : off < 0x100) (h4 : off % 4 = 0) :
    hostAccess P (.write .w32 off v) s = .next (s.writeRegAt P off v) := by
  simp [hostAccess, accessOffset, accessWidth, regAccessOk, regFileEnd, regAccess, h, h4]

/-- A register read that is aligned and inside the register file. -/
theorem hostAccess_readReg (P : Params) (off : Nat) (s : State) (h : off < 0x100) (h4 : off % 4 = 0) :
    hostAccess P (.read .w32 off) s = .next (s.answer (s.readRegAt off)) := by
  simp [hostAccess, accessOffset, accessWidth, regAccessOk, regFileEnd, regAccess, h, h4]

end Sys2Proof.Machine
end

