-- ==== Sys2Proof/Machine/Script.lean ====
section
/-! DEFINITION. The host script (30_encoding.md R100, R101) as the accesses its statements make. Labels and `bnz` are
host control flow, outside the block (R21, log 12): a host program's run is some list of these events. -/

namespace Sys2Proof.Machine

/-- `wr REG, imm32` (R100). -/
def scriptWr (r : Reg) (v : Word) : List Event :=
  [.bus (.write .w32 (regOffset r) v)]

/-- `rd REG` (R100); the data is in `readData` after it. -/
def scriptRd (r : Reg) : List Event :=
  [.bus (.read .w32 (regOffset r))]

/-- `wb off, b0 b1 ... bn` (R100): 8-bit writes from `BUF` offset `off` on. -/
def scriptWb (P : Params) (off : Nat) : List Byte → List Event
  | [] => []
  | b :: bs => .bus (.write .w8 (P.bufBytes + off) (b.setWidth 32)) :: scriptWb P (off + 1) bs

/-- `rb off, n` (R100): n 8-bit reads from `BUF` offset `off` on. -/
def scriptRb (P : Params) (off : Nat) : Nat → List Event
  | 0 => []
  | n + 1 => .bus (.read .w8 (P.bufBytes + off)) :: scriptRb P (off + 1) n

/-- `cmd MNEMONIC [c][, d]` (R100). -/
def scriptCmd (i : Instr) : List Event :=
  scriptWr .cmd (encode i)

/-- `wait` (R101) as it goes when `polls` reads of `STATUS` return `BUSY` = 1, the engine completes, and the next read
returns `BUSY` = 0 (R265: any number of polls is possible). -/
def scriptWait (polls : Nat) : List Event :=
  (List.replicate polls (scriptRd .status)).flatten ++ (.engine :: scriptRd .status)

/-- `ack` (R101). -/
def scriptAck : List Event :=
  scriptWr .status 0x2

/-- `run MNEMONIC [c][, d]` (R101). -/
def scriptRun (polls : Nat) (i : Instr) : List Event :=
  scriptCmd i ++ scriptWait polls

/-- `ops src, dst, len` (R101). -/
def scriptOps (src dst len : Word) : List Event :=
  scriptWr .src src ++ scriptWr .dst dst ++ scriptWr .len len

/-- `setkey k64` (R101). -/
def scriptSetkey (K : BitVec 64) : List Event :=
  scriptWr .keyLo (K.extractLsb' 0 32) ++ scriptWr .keyHi (K.extractLsb' 32 32)

/-- The host arithmetic of `code` (R101) on a word read from `STATUS`. -/
def scriptCode (status : Word) : Byte :=
  status.extractLsb' 8 8

/-- The boot steps 1 to 5 of R255 for context c, each command followed by `wait`. -/
def scriptBoot (polls : Nat) (K : BitVec 64) (ver : Half) (c : CtxId) (cfg v : Word) : List Event :=
  scriptSetkey K ++ scriptWr .version (ver.setWidth 32) ++ scriptRun polls (.ctxInit c) ++
    scriptWr (.ctxCfg c) cfg ++ scriptWr .value v ++ scriptRun polls (.setVector c)

end Sys2Proof.Machine
end

