-- ==== Sys2Proof/Tests/Slice0.lean ====
section
/-! SUPPORT. The model's own tests: expected values from 95_test_vectors.md and 30_encoding.md R102, and for every
statement with hypotheses a state that meets them. -/

namespace Sys2Proof.Tests

open Sys2Proof Sys2Proof.Machine

/-! ## Helpers -/

/-- The test instance TI of 95_test_vectors.md section 0. -/
def TI : Params where
  bt := fun _ W => Vector.ofFn fun i => W[i] + 1
  table := fun b => b
  seed := 0
  k3k0 := .pre
  hasShanda := true
  hasAnnounce := true
  bufBytes := 131072

/-- The build without the Shanda pass and without the announce step. -/
def bare : Params := { TI with hasShanda := false, hasAnnounce := false }

/-- A look at the next state, if there is one. -/
def view {α : Type} (o : Host.Outcome State Fault Refusal) (f : State → α) : Option α :=
  match o with
  | .next t => some (f t)
  | .fault _ => none
  | .refused _ => none

/-- A context keyed at version 62 with a vector. -/
def keyedCtx (v : Word) : Context :=
  { Context.reset with keyed := true, ek := expandKey 0x130806B41B0F3352, version := 62, handshaken := true, vector := v }

/-- Both contexts ready with vector 0x12345678, and bytes in `BUF`. -/
def readyState (mem : Memory) (src dst len : Word) : State :=
  { State.reset with
    ctx0 := keyedCtx 0x12345678, ctx1 := keyedCtx 0x12345678, mem := mem, src := src, dst := dst, len := len }

/-- Both contexts handshaken but never keyed. -/
def unkeyedState : State :=
  let k := { Context.reset with handshaken := true, vector := 0x12345678 }
  { State.reset with ctx0 := k, ctx1 := k }

/-- "HELLO" at offset 0. -/
def hello : Memory := [(0, 0x48), (1, 0x45), (2, 0x4C), (3, 0x4C), (4, 0x4F)]

/-- The last four bytes of the default `BUF`: an empty frame's header. -/
def lastFour : Memory := [(131068, 0x0A), (131069, 0x12), (131070, 0x0A), (131071, 0x12)]

/-- A state whose next event is a host access. -/
def facingState (s : State) (a : Access) : State := { s with inputs := [.bus a] }

/-- A state with a pending command and no event. -/
def pending (s : State) (w : Word) : State := s.withPending w

/-! ## Well-formedness smoke -/

theorem test_wf_opcode : (cmdFields 0x0000000C).opAssigned = false ∧ (cmdFields 0x000000FF).wellFormed TI = false := by
  decide

theorem test_wf_available : (cmdFields 0x0000000A).opAvailable bare = false ∧ (cmdFields 0x0000000B).wellFormed bare = false ∧
    (cmdFields 0x0000000B).wellFormed TI = true := by decide

theorem test_wf_reserved : (cmdFields 0x00000407).reservedClear = false ∧ (cmdFields 0x80000000).wellFormed TI = false := by
  decide

theorem test_wf_instr : Instr.shandaEnc.wellFormed bare = false ∧ Instr.nop.wellFormed bare = true := by decide

/-! ## Decoding: words from R102, and one written out by fields -/

theorem test_decode_nop : decodeTableWord 32 0x00000000 = some .nop ∧ decodeTableWord 32 0x00000300 = some .nop := by decide
theorem test_decode_ctxInit : decodeTableWord 32 0x00000101 = some (.ctxInit .ctx1) := by decide
theorem test_decode_setVector : decodeTableWord 32 0x00000002 = some (.setVector .ctx0) := by decide
theorem test_decode_ivShuffle : decodeTableWord 32 0x00000103 = some (.ivShuffle .ctx1) := by decide
theorem test_decode_hdrBuild : decodeTableWord 32 0x00000204 = some (.hdrBuild .ctx0 .tc1) := by decide
theorem test_decode_pktLen : decodeTableWord 32 0x00000005 = some .pktLen ∧ decodeTableWord 32 0x00000305 = some .pktLen := by
  decide
theorem test_decode_xform : decodeTableWord 32 0x00000106 = some (.xform .ctx1) := by decide
theorem test_decode_encrypt : decodeTableWord 32 0x00000307 = some (.encrypt .ctx1 .tc1) := by decide
theorem test_decode_decrypt : decodeTableWord 32 0x00000108 = some (.decrypt .ctx1) := by decide
theorem test_decode_hsStrip : decodeTableWord 32 0x00000009 = some .hsStrip := by decide
theorem test_decode_shandaEnc : decodeTableWord 32 0x0000000A = some .shandaEnc := by decide
theorem test_decode_shandaDec : decodeTableWord 32 0x0000000B = some .shandaDec := by decide

/-- Bits [31:10], `DIR`, `CTX`, `OP`, most significant first (R90). -/
theorem test_decode_bits :
    decodeTableWord 32 0b0000000000000000000000_1_0_00000111 = some (.encrypt .ctx0 .tc1) ∧
    decodeTableWord 32 0b0000000000000000000000_0_1_00000100 = some (.hdrBuild .ctx1 .tc0) ∧
    decodeTableWord 32 0b0000000000000000000001_0_0_00000111 = none := by decide

/-- 95_test_vectors.md 2.1: ILLEGAL_OP comes before RESERVED_BITS. -/
theorem test_decode_priority :
    decodeWord TI 0x0000040C = .error .illegalOp ∧ decodeWord TI 0x00000C07 = .error .reservedBits ∧
    decodeWord bare 0x0000000A = .error .illegalOp ∧ decodeWord bare 0x0000040B = .error .illegalOp := by decide

theorem test_encode :
    encode (.encrypt .ctx1 .tc1) = 0x307 ∧ encode (.decrypt .ctx1) = 0x108 ∧ encode (.hdrBuild .ctx0 .tc1) = 0x204 ∧
    encode .shandaDec = 0x00B := by decide

/-! ## Commands, one step each -/

theorem test_reset_wf : State.reset.mem.wf := List.Pairwise.nil

theorem test_nop : view (execNop { State.reset with irqEn := true, result := 5 }) (fun t => (t.result, t.irq)) = some (0, true) := by
  decide

/-- 95_test_vectors.md 2.2, third row: the vector set before CTX_INIT is lost. -/
theorem test_ctxInit :
    view (execCtxInit .ctx0 { unkeyedState with keyHi := 0x130806B4, keyLo := 0x1B0F3352, version := 0x3E })
      (fun t => ((t.readRegAt 0x40, t.readRegAt 0x48, t.readRegAt 0x4C), t.ctx0.ek[12], t.ctx0.ek[28])) =
      some ((0x1, 0x3E, 0), 0xB4, 0x52) := by decide

theorem test_setVector :
    view (execSetVector .ctx1 { State.reset with value := 0x12345678 })
      (fun t => (t.result, t.readRegAt 0x60, t.readRegAt 0x6C, t.readRegAt 0x40)) =
      some (0x12345678, 2, 0x12345678, 0) := by decide

/-- 95_test_vectors.md 2.4: a vector is enough, a key is not needed. -/
theorem test_ivShuffle :
    view (execIvShuffle .ctx0 unkeyedState TI) (fun t => (t.result, t.ctx0.vector, t.ctx1.vector)) =
      some (0xC67CC07C, 0xC67CC07C, 0x12345678) := by decide

theorem test_ivShuffle_notReady :
    view (execIvShuffle .ctx0 { State.reset with result := 7 } TI) (fun t => (t.code, t.result)) = some (.notReady, 0) := by
  decide

/-- 95_test_vectors.md 2.5. -/
theorem test_hdrBuild :
    view (execHdrBuild .ctx0 .tc1 (readyState [] 0 0x1FFFC 0xA) TI)
      (fun t => (t.result, t.mem.readBytes 0x1FFFC 4, t.ctx0.vector)) =
      some (0xEDFFEDF5, some [0xF5, 0xED, 0xFF, 0xED], 0x12345678) := by decide

theorem test_hdrBuild_range :
    view (execHdrBuild .ctx0 .tc0 (readyState [] 0 0x1FFFD 0xA) TI) (fun t => (t.code, t.mem)) = some (.range, []) := by decide

/-- 95_test_vectors.md 2.6. -/
theorem test_pktLen :
    view (execPktLen (readyState [(0, 0x0C), (1, 0x54), (2, 0x06), (3, 0x54)] 0 0 0) TI) (fun t => t.result) = some 0xA := by
  decide

/-- 95_test_vectors.md 2.7, in place. -/
theorem test_xform :
    view (execXform .ctx0 (readyState [(0, 0x30), (1, 0x31), (2, 0x32), (3, 0x33)] 0 0 4) TI)
      (fun t => (t.mem.readBytes 0 4, t.result, t.ctx0.vector)) =
      some (some [0x49, 0x66, 0x07, 0x20], 4, 0xC67CC07C) := by decide

/-- 95_test_vectors.md 2.7: the second sub-block starts at position 16. -/
theorem test_xform_subblock :
    (xform TI Context.reset.ek 0x12345678 (List.replicate 20 0)).drop 12 =
      [0x79, 0x57, 0x35, 0x13, 0x7A, 0x58, 0x36, 0x14] := by decide

/-- 95_test_vectors.md 2.8, the first three bytes of B10 (a header of length 3). -/
theorem test_encrypt :
    view (execEncrypt .ctx0 .tc0 (readyState [(0, 0x30), (1, 0x31), (2, 0x32)] 0 0x100 3) TI)
      (fun t => (t.mem.readBytes 0x100 7, t.result, t.ctx0.vector)) =
      some (some [0x0A, 0x12, 0x09, 0x12, 0x49, 0x66, 0x07], 7, 0xC67CC07C) := by decide

/-- 95_test_vectors.md 2.9, first row. -/
theorem test_announce :
    view (execEncrypt .ctx0 .tc0
        { State.reset with dst := 0x100, ctx0 := { keyedCtx 0x10A with announceEn := true } } TI)
      (fun t => (t.ctx0.vector, t.annValid, t.readRegAt 0x24)) = some (0x9A3F2644, true, 0x2644) := by decide

/-- 95_test_vectors.md 2.8: one byte short, and h0 not checked. -/
theorem test_decrypt :
    view (execDecrypt .ctx1 (readyState [(0, 0xFF), (1, 0xFF), (2, 0xFD), (3, 0xFF), (4, 0x49), (5, 0x66)] 0 0x100 6) TI)
      (fun t => (t.mem.readBytes 0x100 2, t.result, t.ctx1.vector, t.ctx0.vector)) =
      some (some [0x30, 0x31], 2, 0xC67CC07C, 0x12345678) := by decide

theorem test_decrypt_short :
    view (execDecrypt .ctx1 (readyState [(0, 0xFF), (1, 0xFF), (2, 0xFD), (3, 0xFF), (4, 0x49), (5, 0x66)] 0 0x100 5) TI)
      (fun t => (t.code, t.ctx1.vector)) = some (.short, 0x12345678) := by decide

/-- 95_test_vectors.md 2.10, the source's example. -/
theorem test_hsStrip :
    view (execHsStrip { State.reset with
        mem := [(0x200, 0x03), (0x201, 0x00), (0x202, 0xAA), (0x203, 0xBB), (0x204, 0xCC)], src := 0x200, dst := 0x300
        len := 5 } TI)
      (fun t => (t.mem.readBytes 0x300 3, t.result)) = some (some [0xAA, 0xBB, 0xCC], 3) := by decide

/-- 95_test_vectors.md 2.11, "HELLO". -/
theorem test_shandaEnc :
    view (execShandaEnc (readyState hello 0 0x10 5) TI) (fun t => (t.mem.readBytes 0x10 5, t.result)) =
      some (some [0xD6, 0x2E, 0xD6, 0xAE, 0x89], 5) := by decide

theorem test_shandaDec :
    view (execShandaDec (readyState hello 0 0x10 5) TI) (fun t => t.mem.readBytes 0x10 5) =
      some (some [0xDF, 0xBA, 0x1D, 0x8B, 0x6B]) := by decide

/-! ## The bus -/

/-- 95_test_vectors.md 2.1: `SHANDA_EN` and `ANNOUNCE_EN` hardwired. -/
theorem test_cfg_warl :
    (State.reset.writeRegAt TI 0x044 0xFFFFFFFF).readRegAt 0x044 = 3 ∧
    (State.reset.writeRegAt { TI with hasShanda := false } 0x044 3).readRegAt 0x044 = 2 ∧
    (State.reset.writeRegAt { TI with hasAnnounce := false } 0x044 3).readRegAt 0x044 = 1 := by decide

theorem test_regAt_regOffset : ∀ r ∈ [Reg.id, .ctrl, .status, .cmd, .src, .dst, .len, .value, .result, .announce, .keyLo,
    .keyHi, .version, .ctxStatus .ctx0, .ctxCfg .ctx0, .ctxVersion .ctx0, .ctxVector .ctx0, .ctxStatus .ctx1, .ctxCfg .ctx1,
    .ctxVersion .ctx1, .ctxVector .ctx1], regAt (regOffset r) = some r := by decide

theorem test_script_cmd : scriptCmd (.encrypt .ctx0 .tc1) = [.bus (.write .w32 0x00C 0x207)] := by decide

/-- A 16-bit write is little-endian, and takes the low bits of the data (R63, log 9). -/
theorem test_buf_write16 :
    view (step (facingState State.reset (.write .w16 (131072 + 2) 0x12345678))) (fun t => t.mem) =
      some [(2, 0x78), (3, 0x56)] := by decide

/-- The example of R252: an aborted SHANDA_ENC leaves its five destination bytes uninitialised, and the sixth kept. -/
theorem test_soft_reset_abort :
    view (step (facingState { readyState (hello ++ [(0x10, 0x11), (0x14, 0x11), (0x15, 0x22)]) 0 0x10 5 with
        busy := true, cmd := 0x00A } (.write .w32 0x004 2)))
      (fun t => (t.mem.read 0x10, t.mem.read 0x14, t.mem.read 0x15, t.mem.read 0, t.busy)) =
      some (none, none, some 0x22, some 0x48, false) := by decide

/-! ## Witnesses: for each statement with hypotheses, operands that meet them -/

theorem witness_DecodingSteps :
    0x0C ≤ ((0x0C : Word).extractLsb' 0 8).toNat ∧ 0x0C ≤ ((0xFF : Word).extractLsb' 0 8).toNat ∧
    ((0x0A : Word).extractLsb' 0 8).toNat = 0x0A ∧ ((0x40B : Word).extractLsb' 0 8).toNat = 0x0B ∧ bare.hasShanda = false ∧
    ((0x407 : Word).extractLsb' 0 8).toNat < 0x0C ∧ (0x407 : Word).extractLsb' 10 22 ≠ 0 ∧
    ((0x30B : Word).extractLsb' 0 8).toNat < 0x0C ∧ (0x30B : Word).extractLsb' 10 22 = 0 ∧ TI.hasShanda = true := by decide

theorem witness_DecodeEncodeRoundTrip :
    Instr.shandaDec.wellFormed TI = true ∧ (Instr.encrypt .ctx1 .tc1).wellFormed bare = true := by decide

theorem witness_DecodeExactly :
    decodeWord TI 0x305 = .ok .pktLen ∧ (0x305 : Word) &&& Instr.pktLen.encodingMask = encode .pktLen ∧
    ¬ (0x307 : Word) &&& (Instr.encrypt .ctx0 .tc1).encodingMask = encode (.encrypt .ctx0 .tc1) := by decide

theorem witness_StepRunsDecodedCommand :
    (pending State.reset 0x101).busy = true ∧ (pending State.reset 0x101).engineTurn [] ∧
    ({ pending State.reset 0x101 with inputs := [.engine, .powerOn] } : State).engineTurn [.powerOn] ∧
    decodeWord Config.params (pending State.reset 0x101).cmd = .ok (.ctxInit .ctx1) ∧
    decodeTableWord 32 0x101 = some (.ctxInit .ctx1) :=
  ⟨rfl, Or.inl ⟨rfl, rfl⟩, Or.inr rfl, rfl, by decide⟩

/-- A word for each clause, at the ends of the opcode ranges. -/
theorem witness_CommandWordOutcomes :
    (pending State.reset 0x40C).busy = true ∧ (pending State.reset 0x40C).engineTurn [] ∧
    0x0C ≤ ((pending State.reset 0x40C).cmd.extractLsb' 0 8).toNat ∧
    ((pending State.reset 0x40B).cmd.extractLsb' 0 8).toNat = 0x0B ∧ bare.hasShanda = false ∧ TI.hasShanda = true ∧
    (pending State.reset 0x40B).cmd.extractLsb' 10 22 ≠ 0 ∧ (pending State.reset 0x30B).cmd.extractLsb' 10 22 = 0 :=
  ⟨rfl, Or.inl ⟨rfl, rfl⟩, by decide, by decide, rfl, rfl, by decide, by decide⟩

theorem reset_inv (P : Params) : State.reset.Inv P where
  memWf := List.Pairwise.nil
  memInBuf := nofun
  pendingFlags := nofun
  announceOk := nofun
  announceValue := rfl
  ctx0 := ⟨fun _ => ⟨rfl, rfl⟩, fun _ => rfl, by decide, nofun, nofun⟩
  ctx1 := ⟨fun _ => ⟨rfl, rfl⟩, fun _ => rfl, by decide, nofun, nofun⟩

/-- A step that changes the state, from a state with the invariant; and the default size is one R5 allows. -/
theorem witness_StepKeepsInvariant :
    State.Inv Config.params { State.reset with inputs := [.bus (.write .w8 262143 0x7F)] } ∧
    step { State.reset with inputs := [.bus (.write .w8 262143 0x7F)] } = .next { State.reset with mem := [(131071, 0x7F)] } ∧
    TI.valid ∧ stepOn TI (execWith TI) State.reset = .next State.reset :=
  ⟨⟨List.Pairwise.nil, nofun, nofun, nofun, rfl, (reset_inv _).ctx0, (reset_inv _).ctx1⟩, rfl,
    ⟨17, by decide, by decide, by decide⟩, rfl⟩

/-- Both outcomes. -/
theorem witness_PendingCommandCompletes :
    (pending State.reset 0).busy = true ∧ (pending State.reset 0).engineTurn [] ∧
    view (step (pending State.reset 0)) (fun t => (t.busy, t.done)) = some (false, true) ∧
    step (pending State.reset 5) = .fault .uninit :=
  ⟨rfl, Or.inl ⟨rfl, rfl⟩, rfl, rfl⟩

theorem witness_IdleBlockWaits : State.reset.busy = false ∧ State.reset.inputs = [] := ⟨rfl, rfl⟩

theorem witness_PowerOnReset :
    step { readyState hello 1 2 3 with inputs := [.powerOn, .engine] } = .next { State.reset with inputs := [.engine] } ∧
    0 < 0x100 ∧ 0xFF < 0x100 := ⟨rfl, by decide, by decide⟩

/-- A busy block, and a byte on each side of both ends of the aborted command's five bytes. -/
theorem witness_SoftReset :
    let s := facingState { readyState hello 0 0x10 5 with busy := true, cmd := 0x00A } (.write .w32 0x004 3)
    s.facing (.write .w32 0x004 3) [] ∧ (3 : Word).getLsbD 1 = true ∧
    inRange s.dst.toNat (pendingDestLen Config.params s) 0x10 ∧ inRange s.dst.toNat (pendingDestLen Config.params s) 0x14 ∧
    ¬ inRange s.dst.toNat (pendingDestLen Config.params s) 0xF ∧
    ¬ inRange s.dst.toNat (pendingDestLen Config.params s) 0x15 ∧
    (facingState State.reset (.write .w32 0x004 2)).busy = false := by
  have h : pendingDestLen Config.params
      (facingState { readyState hello 0 0x10 5 with busy := true, cmd := 0x00A } (.write .w32 0x004 3)) = 5 := by decide
  refine ⟨rfl, by decide, ?_, ?_, ?_, ?_, rfl⟩ <;> rw [h] <;> simp [inRange, facingState, readyState]

theorem witness_AbortRangeIsWrittenRange :
    view (exec .shandaEnc (readyState hello 0 131067 5)) (fun t => t.code) = some .ok ∧
    destLen Config.params (readyState hello 0 131067 5) .shandaEnc = 5 ∧
    view (exec .shandaEnc (readyState hello 0 131068 5)) (fun t => t.code) = some .range ∧
    pendingDestLen Config.params { readyState hello 0 131067 5 with busy := true, cmd := 0x00A } = 5 ∧
    pendingDestLen Config.params { readyState hello 0 131067 5 with busy := true, cmd := 0x00C } = 0 ∧
    pendingDestLen Config.params { readyState hello 0 131067 5 with busy := true, cmd := 0x40A } = 0 ∧
    pendingDestLen Config.params (readyState hello 0 131067 5) = 0 := by decide

/-- A DECRYPT whose header is uninitialised, and an initialisation of it that gives one body byte. -/
theorem witness_AbortRangeCoversEveryInitialisation :
    Memory.initialises [(0, 0x01), (1, 0), (2, 0), (3, 0)] [] ∧
    destLen Config.params (readyState [(0, 0x01), (1, 0), (2, 0), (3, 0)] 0 9 8) (.decrypt .ctx0) = 1 ∧
    destLen Config.params (readyState [] 0 9 8) (.decrypt .ctx0) = 4 := ⟨nofun, by decide, by decide⟩

/-- The first and the last register offset. -/
theorem witness_RegisterReadsHaveNoEffect :
    (facingState State.reset (.read .w32 0)).facing (.read .w32 0) [] ∧
    step (facingState State.reset (.read .w32 0)) = .next { State.reset with readData := some 0x49560001 } ∧
    step (facingState State.reset (.read .w32 0xFC)) = .next { State.reset with readData := some 0 } := ⟨rfl, rfl, rfl⟩

theorem witness_CtrlRegister :
    (facingState State.reset (.write .w32 0x004 1)).facing (.write .w32 0x004 1) [] ∧ (1 : Word).getLsbD 1 = false ∧
    (2 : Word).getLsbD 1 = true ∧ (0 : Nat) < 31 := ⟨rfl, by decide, by decide, by decide⟩

theorem witness_StatusRegister :
    (facingState { State.reset with done := true } (.write .w32 0x008 2)).facing (.write .w32 0x008 2) [] ∧
    view (step (facingState { State.reset with done := true, wdrop := true } (.write .w32 0x008 2)))
      (fun t => (t.done, t.wdrop)) = some (false, true) := ⟨rfl, by decide⟩

theorem witness_CommandAcceptance :
    (facingState State.reset (.write .w32 0x00C 0x407)).facing (.write .w32 0x00C 0x407) [] ∧ State.reset.busy = false ∧
    (facingState (pending State.reset 0) (.write .w32 0x00C 7)).facing (.write .w32 0x00C 7) [] ∧
    (pending State.reset 0).busy = true := ⟨rfl, rfl, rfl, rfl⟩

/-- The first and the last register of the list; and a step with `WDROP` set that clears it. -/
theorem witness_BusyWritesAreDropped :
    (facingState (pending State.reset 0) (.write .w32 0x00C 7)).busy = true ∧
    view (step (facingState (pending State.reset 0) (.write .w32 0x00C 7))) (fun t => (t.cmd, t.wdrop)) = some (0, true) ∧
    view (step (facingState (pending State.reset 0) (.write .w32 0x064 3)))
      (fun t => (t.ctx1.shandaEn, t.wdrop)) = some (false, true) ∧
    view (step (facingState { State.reset with wdrop := true } (.write .w32 0x008 8))) (fun t => t.wdrop) = some false := by
  decide

theorem witness_OperandRegisters :
    (facingState State.reset (.write .w32 0x010 5)).facing (.write .w32 0x010 5) [] ∧ State.reset.busy = false ∧
    (facingState State.reset (.write .w32 0x030 0x1234003E)).facing (.write .w32 0x030 0x1234003E) [] ∧
    view (step (facingState State.reset (.write .w32 0x030 0x1234003E))) (fun t => t.version) = some 0x3E :=
  ⟨rfl, rfl, rfl, by decide⟩

theorem witness_ReadOnlyAndReservedIgnoreWrites :
    step (facingState (pending State.reset 0) (.write .w32 0x000 5)) = .next (pending State.reset 0) ∧
    step (facingState State.reset (.write .w32 0x0FC 5)) = .next State.reset ∧
    0x0FC ∉ [0x004, 0x008, 0x00C, 0x010, 0x014, 0x018, 0x01C, 0x028, 0x02C, 0x030, 0x044, 0x064] := ⟨rfl, rfl, by decide⟩

/-- The ends of the three reserved ranges. -/
theorem witness_ContextRegistersRead :
    (readyState [] 0 0 0).readRegAt 0x034 = 0 ∧ (readyState [] 0 0 0).readRegAt 0x03F = 0 ∧
    (readyState [] 0 0 0).readRegAt 0x050 = 0 ∧ (readyState [] 0 0 0).readRegAt 0x05F = 0 ∧
    (readyState [] 0 0 0).readRegAt 0x070 = 0 ∧ (readyState [] 0 0 0).readRegAt 0x06C = 0x12345678 := by decide

theorem witness_ConfigRegister :
    State.reset.busy = false ∧
    (facingState State.reset (.write .w32 (if CtxId.ctx1 = .ctx0 then 0x044 else 0x064) 3)).facing
      (.write .w32 (if CtxId.ctx1 = .ctx0 then 0x044 else 0x064) 3) [] := ⟨rfl, rfl⟩

/-- A narrow and an unaligned access, and both ends of the hole. -/
theorem witness_BadRegisterAccessIsBusError :
    step (facingState State.reset (.read .w8 0xFF)) = .fault .bus ∧
    step (facingState State.reset (.write .w32 0x012 0)) = .fault .bus ∧
    step (facingState State.reset (.read .w32 0x100)) = .fault .bus ∧
    step (facingState State.reset (.write .w8 131071 0)) = .fault .bus := ⟨rfl, rfl, rfl, rfl⟩

/-- The last byte, halfword and word of `BUF`, the refused forms, and an uninitialised byte. -/
theorem witness_BufAccess :
    view (step (facingState State.reset (.write .w8 262143 0x99))) (fun t => t.mem) = some [(131071, 0x99)] ∧
    view (step (facingState (readyState lastFour 0 0 0) (.read .w16 262142))) (fun t => t.readData) = some (some 0x120A) ∧
    view (step (facingState (readyState lastFour 0 0 0) (.read .w32 262140))) (fun t => t.readData) =
      some (some 0x120A120A) := by decide

theorem witness_BufAccess_refused :
    step (facingState State.reset (.read .w16 262143)) = .fault .bus ∧
    step (facingState State.reset (.write .w32 131074 0)) = .fault .bus ∧
    step (facingState State.reset (.read .w64 131072)) = .fault .bus ∧
    step (facingState State.reset (.read .w8 131072)) = .fault .uninit ∧ State.reset.uninitIn 0 1 :=
  ⟨rfl, rfl, rfl, rfl, 0, by decide, rfl⟩

/-- Both ends of `BUF`. -/
theorem witness_BufWhileBusyIsHazard :
    step (facingState (pending State.reset 0) (.read .w32 131072)) = .fault .hazard ∧
    step (facingState (pending State.reset 0) (.write .w8 262143 0)) = .fault .hazard := ⟨rfl, rfl⟩

theorem witness_OperandsHeldWhilePending :
    let s := facingState (pending State.reset 0) (.read .w32 0x008)
    s.busy = true ∧ s.facing (.read .w32 0x008) [] ∧ ¬ s.resetsNext ∧
      step s = .next { pending State.reset 0 with readData := some 1 } := by
  refine ⟨rfl, rfl, ?_, rfl⟩
  rintro (⟨rest, h⟩ | ⟨v, rest, h, -⟩)
  · cases h
  · cases h

theorem witness_KeysAreUnreadable :
    (facingState (readyState [] 0 0 0) (.read .w32 0x028)).sameButKeys
      { facingState (readyState [] 0 0 0) (.read .w32 0x028) with
        keyLo := 5, keyHi := 6, ctx0 := { keyedCtx 0x12345678 with ek := expandKey 1 } } :=
  ⟨5, 6, expandKey 1, (keyedCtx 0x12345678).ek, rfl⟩

theorem witness_DoneFlagLifeCycle :
    (facingState { State.reset with done := true } (.write .w32 0x00C 0)).facing (.write .w32 0x00C 0) [] ∧
    view (step (facingState { State.reset with done := true } (.write .w32 0x00C 0))) (fun t => t.done) = some false ∧
    (pending State.reset 0).engineTurn [] ∧ view (step (pending State.reset 0)) (fun t => t.done) = some true ∧
    (facingState State.reset (.write .w32 0x008 2)).facing (.write .w32 0x008 2) [] :=
  ⟨rfl, rfl, Or.inl ⟨rfl, rfl⟩, rfl, rfl⟩

/-- An ENCRYPT that announces, on the test instance. -/
theorem witness_AnnounceOnlyByEncrypt :
    let s := pending { State.reset with dst := 0x100, ctx0 := { keyedCtx 0x10A with announceEn := true } } 0x007
    view (stepOn TI (execWith TI) s) (fun t => t.annValid) = some true ∧ s.annValid = false ∧
    (facingState State.reset (.write .w32 0x00C 7)).facing (.write .w32 0x00C 7) [] := ⟨by decide, rfl, rfl⟩

/-- CTX_INIT and a power-on reset, each on a state whose next step is it, and commands that keep the staged key. -/
theorem witness_KeyChangesOnlyByCtxInit :
    view (step (pending (readyState [] 0 0 0) 0x001)) (fun t => t.ctx0.ek[0]) = some 0 ∧
    (pending (readyState [] 0 0 0) 0x001).completesNext Config.params (.ctxInit .ctx0) ∧
    step { readyState [] 0 0 0 with inputs := [.powerOn] } = .next State.reset ∧
    State.resetsNext { readyState [] 0 0 0 with inputs := [.powerOn] } ∧ (∀ c, Instr.nop ≠ .ctxInit c) ∧
    view (exec .nop (State.reset.restage 1 2)) (fun t => (t.keyLo, t.keyHi)) = some (1, 2) ∧
    exec .pktLen (State.reset.restage 1 2) = .fault .uninit :=
  ⟨rfl, ⟨rfl, ⟨[], Or.inl ⟨rfl, rfl⟩⟩, rfl⟩, rfl, Or.inl ⟨[], rfl⟩, nofun, rfl, rfl⟩

theorem witness_VectorChangesFourWays :
    view (step (pending { State.reset with value := 9 } 0x002)) (fun t => t.ctx0.vector) = some 9 ∧
    (pending { State.reset with value := 9 } 0x002).completesNext Config.params (.setVector .ctx0) ∧
    step (pending unkeyedState 0x003) = exec (.ivShuffle .ctx0) (pending unkeyedState 0x003) :=
  ⟨rfl, ⟨rfl, ⟨[], Or.inl ⟨rfl, rfl⟩⟩, rfl⟩, rfl⟩

theorem witness_IvShuffleCompletes :
    (State.reset.ctx .ctx0).handshaken = false ∧ (unkeyedState.ctx .ctx0).handshaken = true := ⟨rfl, rfl⟩

theorem witness_ShuffleTestVectors :
    (∀ b, TI.table b = b) ∧ TI.seed = 0 ∧ TI.k3k0 = .pre ∧ ({ TI with k3k0 := .post } : Params).k3k0 = .post :=
  ⟨fun _ => rfl, rfl, rfl, rfl⟩

/-- An OK shuffle, one that ends NOT_READY, and another command. -/
theorem witness_ShuffleOncePerOkCommand :
    view (exec (.ivShuffle .ctx0) unkeyedState) (fun t => t.code) = some .ok ∧
    view (exec (.ivShuffle .ctx0) State.reset) (fun t => t.code) = some .notReady ∧
    view (exec (.hdrBuild .ctx0 .tc0) unkeyedState) (fun t => t.ctx0.vector) = some 0x12345678 := ⟨rfl, rfl, rfl⟩

theorem witness_LockstepShuffles :
    unkeyedState.ctx0.handshaken = true ∧ unkeyedState.ctx1.handshaken = true ∧
    unkeyedState.ctx0.vector = unkeyedState.ctx1.vector := ⟨rfl, rfl, rfl⟩

/-- LEN = 0xFFFF and 0x10000, DST = B - 4 and B - 3. -/
theorem witness_HdrBuildCompletes :
    (State.reset.ctx .ctx0).handshaken = false ∧ ((readyState [] 0 131068 0xFFFF).ctx .ctx0).handshaken = true ∧
    (readyState [] 0 131068 0xFFFF).len.toNat ≤ 0xFFFF ∧ 0xFFFF < (readyState [] 0 131068 0x10000).len.toNat ∧
    (readyState [] 0 131068 0xFFFF).dst.toNat + 4 ≤ Config.params.bufBytes ∧
    Config.params.bufBytes < (readyState [] 0 131069 0xFFFF).dst.toNat + 4 := by decide

theorem holds_lastFour : (readyState lastFour 131068 0 0).holds 131068 [0x0A, 0x12, 0x0A, 0x12] := by
  intro j h
  match j, h with
  | 0, _ => rfl
  | 1, _ => rfl
  | 2, _ => rfl
  | 3, _ => rfl

theorem witness_PktLenCompletes :
    (readyState lastFour 131068 0 0).src.toNat + 4 ≤ Config.params.bufBytes ∧
    (readyState lastFour 131068 0 0).holds 131068 [0x0A, 0x12, 0x0A, 0x12] ∧
    Config.params.bufBytes < (readyState lastFour 131069 0 0).src.toNat + 4 := ⟨by decide, holds_lastFour, by decide⟩

/-- A body of 256 bytes: its first index sees `remaining_len` 0, its last 1 (R208). -/
theorem witness_ShandaSubPasses :
    255 < (List.replicate 256 (0 : Byte)).length ∧ remainingAt 256 0 = 0 ∧ remainingAt 256 255 = 1 ∧
    remainingAt 257 0 = 1 := by
  refine ⟨?_, by decide, by decide, by decide⟩
  rw [List.length_replicate]
  omega

/-- Byte positions of the key expansion and of a body. -/
theorem witness_ExpandedKeyBytes_XformClosedForm : 31 < 32 ∧ 15 < 16 ∧ 0 < [(0x30 : Byte)].length := by decide

/-- Positions 0 and 1456, and 1456 and 2916. -/
theorem witness_KeystreamByPositionAlone :
    1456 < (List.replicate 2917 (0 : Byte)).length ∧ 2916 < (List.replicate 2917 (0 : Byte)).length := by
  rw [List.length_replicate]
  omega

theorem holds_nil (s : State) (off : Nat) : s.holds off [] := nofun

/-- Ready and not, a body of no bytes at the end of `BUF`, and a byte too many there on each side. -/
theorem witness_XformCompletes :
    ¬ unkeyedState.ready .ctx0 ∧ (readyState [] 131072 131072 0).ready .ctx1 ∧
    (readyState [] 131072 131072 0).src.toNat + 0 ≤ Config.params.bufBytes ∧
    (readyState [] 131072 131072 0).holds 131072 [] ∧
    Config.params.bufBytes < (readyState [] 131072 0 1).src.toNat + 1 ∧
    Config.params.bufBytes < (readyState [] 0 131072 1).dst.toNat + 1 :=
  ⟨fun h => Bool.noConfusion h.1, ⟨rfl, rfl⟩, by decide, holds_nil _ _, by decide, by decide⟩

/-- LEN = 0x10000, DST + 4 + LEN = B and B + 1. -/
theorem witness_EncryptCompletes :
    ¬ State.reset.ready .ctx0 ∧ (readyState [] 0 131068 0).ready .ctx0 ∧
    0xFFFF < (readyState [] 0 0 0x10000).len.toNat ∧ (readyState [] 0 0 0xFFFF).len.toNat ≤ 0xFFFF ∧
    (readyState [] 0 131068 0).dst.toNat + 4 + 0 ≤ Config.params.bufBytes ∧ (readyState [] 0 131068 0).holds 0 [] ∧
    Config.params.bufBytes < (readyState [] 0 131069 0).dst.toNat + 4 + 0 :=
  ⟨fun h => Bool.noConfusion h.1, ⟨rfl, rfl⟩, by decide, by decide, by decide, holds_nil _ _, by decide⟩

/-- LEN = 3 and 4; an empty frame at the end of `BUF`, also with `DST` one past the end. -/
theorem witness_DecryptCompletes :
    ¬ State.reset.ready .ctx0 ∧ (readyState lastFour 131068 0 4).ready .ctx1 ∧
    (readyState lastFour 131068 0 3).len.toNat < 4 ∧ 4 ≤ (readyState lastFour 131068 0 4).len.toNat ∧
    Config.params.bufBytes < (readyState lastFour 131068 0 5).src.toNat + 5 ∧
    (readyState lastFour 131068 0 4).src.toNat + 4 ≤ Config.params.bufBytes ∧
    (readyState lastFour 131068 0 4).holds 131068 [0x0A, 0x12, 0x0A, 0x12] ∧
    (((0x12 : Byte) ++ (0x0A : Byte)) ^^^ ((0x12 : Byte) ++ (0x0A : Byte)) : Half).toNat = 0 ∧
    view (exec (.decrypt .ctx1) (readyState lastFour 131068 131073 4)) (fun t => t.code) = some .range ∧
    view (exec (.decrypt .ctx1) (readyState lastFour 131068 131072 4)) (fun t => t.code) = some .ok ∧
    view (exec (.decrypt .ctx1) (readyState hello 0 0 4)) (fun t => t.code) = some .short :=
  ⟨fun h => Bool.noConfusion h.1, ⟨rfl, rfl⟩, by decide, by decide, by decide, by decide, holds_lastFour, by decide,
    rfl, rfl, rfl⟩

/-- LEN = 1 and 2, and the same three cases of the body. -/
theorem witness_HsStripCompletes :
    view (exec .hsStrip (readyState [] 0 0 1)) (fun t => t.code) = some .short ∧
    view (exec .hsStrip (readyState [] 131071 0 2)) (fun t => t.code) = some .range ∧
    view (exec .hsStrip (readyState hello 0 0 5)) (fun t => t.code) = some .short ∧
    view (exec .hsStrip (readyState [(0, 0), (1, 0)] 0 131073 2)) (fun t => t.code) = some .range ∧
    view (exec .hsStrip (readyState [(0, 1), (1, 0), (2, 7)] 0 131071 3)) (fun t => t.mem.read 131071) = some (some 7) := by
  decide

theorem holds_hello (src dst len : Word) : (readyState hello src dst len).holds 0 [0x48, 0x45, 0x4C, 0x4C, 0x4F] := by
  intro j h
  match j, h with
  | 0, _ => rfl
  | 1, _ => rfl
  | 2, _ => rfl
  | 3, _ => rfl
  | 4, _ => rfl

/-- The frame and the plaintext both end at the end of `BUF`. -/
theorem witness_EncryptDecryptRoundTrip :
    let s := readyState hello 0 131063 5
    s.ready .ctx0 ∧ s.ready .ctx1 ∧ (s.ctx .ctx0).ek = (s.ctx .ctx1).ek ∧ (s.ctx .ctx0).vector = (s.ctx .ctx1).vector ∧
    (s.ctx .ctx0).shandaEn = (s.ctx .ctx1).shandaEn ∧ s.len = BitVec.ofNat 32 5 ∧
    s.holds s.src.toNat [0x48, 0x45, 0x4C, 0x4C, 0x4F] ∧ s.src.toNat + 5 ≤ Config.params.bufBytes ∧
    s.dst.toNat + 4 + 5 ≤ Config.params.bufBytes ∧ (131067 : Word).toNat + 5 ≤ Config.params.bufBytes :=
  ⟨⟨rfl, rfl⟩, ⟨rfl, rfl⟩, rfl, rfl, rfl, rfl, holds_hello _ _ _, by decide, by decide, by decide⟩

theorem witness_ShandaCommandsComplete :
    (readyState hello 0 131067 5).dst.toNat + 5 ≤ Config.params.bufBytes ∧
    (readyState hello 0 131067 5).holds 0 [0x48, 0x45, 0x4C, 0x4C, 0x4F] ∧
    Config.params.bufBytes < (readyState hello 0 131068 5).dst.toNat + 5 ∧
    Config.params.bufBytes < (readyState hello 131068 0 5).src.toNat + 5 := ⟨by decide, holds_hello _ _ _, by decide, by decide⟩

theorem witness_ErrorCompletionHasNoEffect :
    view (exec (.xform .ctx0) unkeyedState) (fun t => t.code) = some .notReady := by decide

theorem witness_CommandFrame :
    view (exec .hsStrip (readyState [(0, 1), (1, 0), (2, 7)] 0 9 3)) (fun t => (t.mem.read 9, t.mem.read 10)) =
      some (some 7, none) ∧ ¬ inRange 9 (4 + 3) 16 ∧ ¬ inRange 9 (4 + 3) 8 := ⟨by decide, by simp [inRange], by simp [inRange]⟩

/-- Uninitialised header, body of a bulk command, body of a frame, and prefix. -/
theorem witness_UninitialisedSourceFaults :
    (readyState [] 131068 0 0).uninitIn 131068 4 ∧ exec .pktLen (readyState [] 131068 0 0) = .fault .uninit ∧
    (readyState hello 0 0 6).uninitIn 0 6 ∧ exec .shandaEnc (readyState hello 0 0 6) = .fault .uninit ∧
    exec (.encrypt .ctx0 .tc0) (readyState hello 0 9 6) = .fault .uninit ∧
    exec (.decrypt .ctx0) (readyState [(0, 1), (1, 0), (2, 0), (3, 0)] 0 9 5) = .fault .uninit ∧
    exec .hsStrip (readyState [(0, 1), (1, 0)] 0 9 3) = .fault .uninit ∧
    exec .hsStrip (readyState [(0, 1)] 0 9 2) = .fault .uninit :=
  ⟨⟨0, by decide, rfl⟩, rfl, ⟨5, by decide, rfl⟩, rfl, rfl, rfl, rfl, rfl⟩

end Sys2Proof.Tests
end

section
/-! SUPPORT. Register writes as whole steps, and one inversion of a step of the machine on any implementation. -/

namespace Sys2Proof.Machine

/-! ## Registers by their offsets -/

theorem regAt_regOffset (r : Reg) : regAt (regOffset r) = some r := by
  cases r with
  | ctxStatus c | ctxCfg c | ctxVersion c | ctxVector c => cases c <;> rfl
  | _ => rfl

theorem regOffset_of_regAt (off : Nat) (r : Reg) (h : regAt off = some r) : off = regOffset r := by
  unfold regAt at h
  split at h <;> cases h <;> rfl

/-- R61: every register stands at a word-aligned offset inside the register file. -/
theorem regOffset_admitted (r : Reg) : regOffset r < 0x100 ∧ regOffset r % 4 = 0 := by
  cases r with
  | ctxStatus c | ctxCfg c | ctxVersion c | ctxVector c => cases c <;> decide
  | _ => decide

/-! ## What a register write does -/

theorem State.writeRegAt_dropped (P : Params) (s : State) (r : Reg) (v : Word) (hb : s.busy = true)
    (hr : heldWhileBusy r = true) : s.writeRegAt P (regOffset r) v = s.dropWrite := by
  simp [State.writeRegAt, regAt_regOffset, State.writeReg, hb, hr]

theorem State.writeRegAt_put (P : Params) (s : State) (r : Reg) (v : Word)
    (h : s.busy = false ∨ heldWhileBusy r = false) : s.writeRegAt P (regOffset r) v = s.putReg P v r := by
  rcases h with h | h <;> simp [State.writeRegAt, regAt_regOffset, State.writeReg, h]

theorem State.writeCtrl_reset (P : Params) (s : State) (v : Word) (h : v.getLsbD 1 = true) :
    s.writeCtrl P v = softReset P s :=
  if_pos h

theorem State.writeCtrl_keep (P : Params) (s : State) (v : Word) (h : v.getLsbD 1 = false) :
    s.writeCtrl P v = { s with irqEn := v.getLsbD 0 } :=
  if_neg (by simp only [h, Bool.false_eq_true, not_false_eq_true])

/-- A host write of a register, as a step. -/
theorem step_writeReg (s : State) (r : Reg) (v : Word) (rest : List Event)
    (h : s.facing (.write .w32 (regOffset r) v) rest) :
    step s = .next (State.writeRegAt Config.params { s with inputs := rest } (regOffset r) v) := by
  obtain ⟨hlt, h4⟩ := regOffset_admitted r
  rw [step_facing s _ rest h, hostAccess_writeReg _ _ _ _ hlt h4]

/-- R29: a write of a register held while busy, as a step. -/
theorem step_dropReg (s : State) (r : Reg) (v : Word) (rest : List Event) (hb : s.busy = true)
    (hr : heldWhileBusy r = true) (h : s.facing (.write .w32 (regOffset r) v) rest) :
    step s = .next (State.dropWrite { s with inputs := rest }) := by
  rw [step_writeReg s r v rest h, State.writeRegAt_dropped _ { s with inputs := rest } r v hb hr]

/-- A register write that is not dropped, as a step. -/
theorem step_putReg (s : State) (r : Reg) (v : Word) (rest : List Event)
    (hfree : s.busy = false ∨ heldWhileBusy r = false) (h : s.facing (.write .w32 (regOffset r) v) rest) :
    step s = .next (State.putReg Config.params { s with inputs := rest } v r) := by
  rw [step_writeReg s r v rest h, State.writeRegAt_put _ { s with inputs := rest } r v hfree]

/-- No register write but a soft reset and a store to `STATUS` touches `WDROP`. -/
theorem State.putReg_wdrop (P : Params) (s : State) (v : Word) (r : Reg)
    (hreset : ¬ (r = .ctrl ∧ v.getLsbD 1 = true)) (hstatus : r ≠ .status) : (s.putReg P v r).wdrop = s.wdrop := by
  cases r with
  | ctrl => rw [State.putReg, State.writeCtrl_keep P s v (by simpa using hreset)]
  | status => exact absurd rfl hstatus
  | ctxCfg c => exact State.setCtx_wdrop ..
  | _ => rfl

/-- No register write raises `ANN_VALID`. -/
theorem State.putReg_annValid (P : Params) (s : State) (v : Word) (r : Reg)
    (hreset : ¬ (r = .ctrl ∧ v.getLsbD 1 = true)) (h : s.annValid = false) : (s.putReg P v r).annValid = false := by
  cases r with
  | ctrl =>
    rw [State.putReg, State.writeCtrl_keep P s v (by simpa using hreset)]
    exact h
  | cmd => rfl
  | ctxCfg c => exact (State.setCtx_annValid ..).trans h
  | _ => exact h

/-- No register write but a soft reset touches a vector. -/
theorem State.putReg_vector (P : Params) (s : State) (v : Word) (r : Reg) (c : CtxId)
    (hreset : ¬ (r = .ctrl ∧ v.getLsbD 1 = true)) : ((s.putReg P v r).ctx c).vector = (s.ctx c).vector := by
  cases r with
  | ctrl =>
    rw [State.putReg, State.writeCtrl_keep P s v (by simpa using hreset)]
    cases c <;> rfl
  | ctxCfg c' => cases c' <;> cases c <;> rfl
  | _ => cases c <;> rfl

/-! ## What a command does to the contexts and to the flags -/

/-- A command that answers a next state changes each context record only as its rule says. -/
theorem execWith_ctx (P : Params) (i : Instr) (s t : State) (c : CtxId) (h : execWith P i s = .next t) :
    ContextChange P i s c (t.ctx c) := by
  rcases execWith_next P i s t h with ⟨code, -, rfl, -⟩ | ⟨c', k, bs, r, hk, -, -, ht⟩
  · exact Or.inl (State.finish_ctx ..)
  · have hctx : t.ctx c = (s.setCtx c' k).ctx c := by
      rcases ht with rfl | ⟨-, rfl⟩ <;> simp [committed]
    by_cases hc : c = c'
    · subst hc
      rwa [hctx, State.setCtx_ctx_same]
    · exact Or.inl (hctx.trans (State.setCtx_ctx_other _ _ _ _ hc))

theorem execWith_wdrop (P : Params) (i : Instr) (s t : State) (h : execWith P i s = .next t) : t.wdrop = s.wdrop := by
  rcases execWith_next P i s t h with ⟨code, -, rfl, -⟩ | ⟨c, k, bs, r, -, -, -, rfl | ⟨-, rfl⟩⟩
  · rfl
  · simp [committed]
  · simp [committed]

theorem execWith_done (P : Params) (i : Instr) (s t : State) (h : execWith P i s = .next t) : t.done = true := by
  rcases execWith_next P i s t h with ⟨code, -, rfl, -⟩ | ⟨c, k, bs, r, -, -, -, rfl | ⟨-, rfl⟩⟩
  · rfl
  · rfl
  · simp [committed]

/-- The announce step raises `ANN_VALID` only in a context with `ANNOUNCE_EN` whose vector `must_announce` admits, and
then puts the vector's low half in `ANNOUNCE` (R45, R181). -/
theorem State.announceStep_raises (s : State) (c : CtxId) (h0 : s.annValid = false)
    (h : (s.announceStep c).annValid = true) :
    (s.ctx c).announceEn = true ∧ (s.announceStep c).announce = loHalf (s.ctx c).vector ∧
      (loHalf (s.ctx c).vector).toNat % announceMod = 0 := by
  unfold State.announceStep at h ⊢
  split at h
  case isTrue hc =>
    obtain ⟨hen, hmust⟩ := Bool.and_eq_true_iff.mp hc
    exact ⟨hen, by rw [if_pos hc], of_decide_eq_true hmust⟩
  case isFalse => exact absurd h (by simp [h0])

/-- A command ends with `ANN_VALID` set only if it is an ENCRYPT that ended OK and produced a keep-alive value. -/
theorem execWith_annValid (P : Params) (i : Instr) (s t : State) (h : execWith P i s = .next t)
    (ha : t.annValid = true) :
    ∃ c d, i = .encrypt c d ∧ t.code = .ok ∧ (s.ctx c).announceEn = true ∧
      t.announce = loHalf (shuffle P (s.ctx c).vector) ∧ t.announce.toNat % announceMod = 0 := by
  rcases execWith_next P i s t h with ⟨code, -, rfl, -⟩ | ⟨c, k, bs, r, -, -, -, rfl | ⟨⟨d, rfl⟩, -⟩⟩
  · cases ha
  · cases ha
  · rcases execEncrypt_next P c d s t h with ⟨-, rfl⟩ | ⟨-, body, -, rfl⟩
    · cases ha
    · obtain ⟨hen, hval, hmod⟩ := State.announceStep_raises _ c rfl ha
      simp only [State.finish_ctx, State.store_ctx, State.setVectorOf_ctx_same] at hen hval hmod
      exact ⟨c, d, rfl, by simp, hen, hval, hval ▸ hmod⟩

/-! ## One step, by what it takes -/

/-- The ways a step of the machine on the implementation `P` can answer a next state, each with the event it takes. -/
inductive StepForm (P : Params) (s : State) : State → Prop where
  /-- The engine's turn with no command pending (R254). -/
  | idle (rest : List Event) (turn : s.engineTurn rest) (hb : s.busy = false) : StepForm P s { s with inputs := rest }
  /-- The pending word is no command (R96). -/
  | rejected (rest : List Event) (code : Code) (turn : s.engineTurn rest) (hb : s.busy = true) (hcode : code ≠ .ok)
      (hdec : ∀ i, decodeWord P s.cmd ≠ .ok i) : StepForm P s (State.finish { s with inputs := rest } code 0)
  /-- The pending command ends, with whatever code (R220). -/
  | completes (rest : List Event) (i : Instr) (t : State) (hi : s.completesNext P i)
      (hrun : execWith P i { s with inputs := rest } = .next t) : StepForm P s t
  /-- A host read is answered (R69). -/
  | answered (rest : List Event) (a : Access) (data : Word) (ha : s.facing a rest)
      (hread : hostAccess P a { s with inputs := rest } = .next (State.answer { s with inputs := rest } data)) :
      StepForm P s (State.answer { s with inputs := rest } data)
  /-- A host write of `BUF` (R63). -/
  | stored (rest : List Event) (w : Width) (off : Nat) (v : Word) (ha : s.facing (.write w off v) rest)
      (hlo : P.bufBytes ≤ off) (hhi : off < 2 * P.bufBytes) (hok : bufAccessOk w (off - P.bufBytes) = true)
      (hb : s.busy = false) :
      StepForm P s (State.store { s with inputs := rest } (off - P.bufBytes) ((bytes32 v).take (widthBytes w)))
  /-- A host write in the register file that changes nothing (R22). -/
  | ignored (rest : List Event) (off : Nat) (v : Word) (ha : s.facing (.write .w32 off v) rest) :
      StepForm P s { s with inputs := rest }
  /-- A host write dropped because a command is pending (R29). -/
  | dropped (rest : List Event) (off : Nat) (v : Word) (ha : s.facing (.write .w32 off v) rest) (hb : s.busy = true) :
      StepForm P s (State.dropWrite { s with inputs := rest })
  /-- A host write of a register, but for a soft reset. -/
  | put (rest : List Event) (r : Reg) (v : Word) (ha : s.facing (.write .w32 (regOffset r) v) rest)
      (hfree : s.busy = false ∨ heldWhileBusy r = false) (hreset : ¬ (r = .ctrl ∧ v.getLsbD 1 = true)) :
      StepForm P s (State.putReg P { s with inputs := rest } v r)
  /-- A soft reset (R252). -/
  | softReset (rest : List Event) (hr : s.resetsNext) : StepForm P s (softReset P { s with inputs := rest })
  /-- A power-on reset (R251). -/
  | powerOn (rest : List Event) (hr : s.resetsNext) : StepForm P s (powerOnReset { s with inputs := rest })

/-- The engine's step has one of the forms of a step. -/
theorem stepForm_of_engineStep (P : Params) (s t : State) (rest : List Event) (turn : s.engineTurn rest)
    (h : engineStep P (execWith P) { s with inputs := rest } = .next t) : StepForm P s t := by
  rcases engineStep_next P (execWith P) _ t h with
    ⟨hb, rfl⟩ | ⟨hb, hd, rfl⟩ | ⟨hb, hd, rfl⟩ | ⟨hb, i, hd, hrun⟩
  · exact .idle rest turn hb
  · exact .rejected rest .illegalOp turn hb nofun fun i hi => nomatch hd.symm.trans hi
  · exact .rejected rest .reservedBits turn hb nofun fun i hi => nomatch hd.symm.trans hi
  · exact .completes rest i t ⟨hb, ⟨rest, turn⟩, hd⟩ hrun

/-- A write inside the register file has one of the forms of a step. -/
theorem stepForm_of_writeRegAt (P : Params) (s : State) (rest : List Event) (off : Nat) (v : Word)
    (ha : s.facing (.write .w32 off v) rest) :
    StepForm P s (State.writeRegAt P { s with inputs := rest } off v) := by
  rcases State.writeRegAt_cases P { s with inputs := rest } off v with h | ⟨hb, h⟩ | ⟨r, hr, hfree, h⟩ <;> rw [h]
  · exact .ignored rest off v ha
  · exact .dropped rest off v ha hb
  · obtain rfl := regOffset_of_regAt off r hr
    by_cases hreset : r = .ctrl ∧ v.getLsbD 1 = true
    · obtain ⟨rfl, hv⟩ := hreset
      rw [State.putReg, State.writeCtrl_reset _ _ _ hv]
      exact .softReset rest (Or.inr ⟨v, rest, ha, hv⟩)
    · exact .put rest r v ha hfree hreset

/-- A host access has one of the forms of a step. -/
theorem stepForm_of_hostAccess (P : Params) (s t : State) (rest : List Event) (a : Access) (ha : s.facing a rest)
    (h : hostAccess P a { s with inputs := rest } = .next t) : StepForm P s t := by
  rcases hostAccess_next P a _ t h with ⟨off, -, -, -, rfl⟩ | ⟨off, v, rfl, -, -, rfl⟩ |
    ⟨w, off, bs, -, -, -, -, -, -, rfl⟩ | ⟨w, off, v, rfl, hlo, hhi, hok, hb, rfl⟩
  · exact .answered rest a _ ha h
  · exact stepForm_of_writeRegAt P s rest off v ha
  · exact .answered rest a _ ha h
  · exact .stored rest w off v ha hlo hhi hok hb

/-- Every step that answers a next state has one of the forms above. -/
theorem stepForm_of_stepOn (P : Params) (s t : State) (h : stepOn P (execWith P) s = .next t) : StepForm P s t := by
  obtain ⟨rest, ⟨turn, h⟩ | ⟨a, ha, h⟩ | ⟨hi, rfl⟩⟩ := stepOn_next P (execWith P) s t h
  · exact stepForm_of_engineStep P s t rest turn h
  · exact stepForm_of_hostAccess P s t rest a ha h
  · exact .powerOn rest (Or.inl ⟨rest, hi⟩)

theorem stepForm_of_step (s t : State) (h : step s = .next t) : StepForm Config.params s t :=
  stepForm_of_stepOn Config.params s t (step_eq_stepOn s ▸ h)

end Sys2Proof.Machine
end

section
/-! The statements of 10_state.md. -/

namespace Sys2Proof.Machine

/-! ## CTRL (R24) -/

theorem State.ctrlWord_bit (s : State) (k : Nat) : s.ctrlWord.getLsbD k = (decide (k = 0) && s.irqEn) := by
  rw [State.ctrlWord, BitVec.getLsbD_append, BitVec.getLsbD_ofBool]
  cases k <;> simp

theorem State.irq_iff (s : State) : s.irq = true ↔ s.done = true ∧ s.irqEn = true :=
  Bool.and_eq_true_iff.trans and_comm

/-- Settles O16: a write of `CTRL` is never dropped, and `SRST` decides between its two effects. -/
theorem ctrlRegister : Obligations.CtrlRegister := by
  intro s
  refine ⟨⟨?_, fun k hk => ?_⟩, by decide, fun h => ?_, fun h => ?_, fun v rest hf => ?_⟩
  · exact State.ctrlWord_bit s 0
  · exact (State.ctrlWord_bit s k).trans (by simp [Nat.ne_of_gt hk])
  · simp [State.irq, h]
  · simp [State.irq, h]
  · have hstep := step_putReg s .ctrl v rest (Or.inr rfl) hf
    rw [State.putReg] at hstep
    exact ⟨fun hv => hstep.trans (by rw [State.writeCtrl_keep _ _ _ hv]),
      fun hv => hstep.trans (by rw [State.writeCtrl_reset _ _ _ hv])⟩

/-! ## WDROP (R29) -/

/-- The offsets R29 names are those of registers held while busy. -/
theorem heldWhileBusy_offsets :
    ∀ off ∈ [0x00C, 0x010, 0x014, 0x018, 0x01C, 0x028, 0x02C, 0x030, 0x044, 0x064],
      ∃ r ∈ [Reg.cmd, .src, .dst, .len, .value, .keyLo, .keyHi, .version, .ctxCfg .ctx0, .ctxCfg .ctx1],
        heldWhileBusy r = true ∧ regOffset r = off := by decide

/-- `WDROP` stays set over every step but a write of 1 to `STATUS` bit 3 and a reset, on every implementation. -/
theorem StepForm.wdrop_sticky {P : Params} {s t : State} (h : StepForm P s t) (hw : s.wdrop = true) :
    t.wdrop = true ∨ s.resetsNext ∨ ∃ v rest, s.facing (.write .w32 0x008 v) rest ∧ v.getLsbD 3 = true := by
  cases h with
  | idle | rejected | answered | stored | ignored => exact Or.inl hw
  | dropped => exact Or.inl rfl
  | completes rest i _ hi hrun => exact Or.inl ((execWith_wdrop _ _ _ _ hrun).trans hw)
  | put rest r v ha hfree hreset =>
    by_cases hr : r = .status
    · subst hr
      cases hv : v.getLsbD 3 with
      | true => exact Or.inr (Or.inr ⟨v, rest, ha, hv⟩)
      | false => exact Or.inl (by rw [State.putReg, State.writeStatus_wdrop, hv]; simpa using hw)
    · exact Or.inl ((State.putReg_wdrop _ _ _ _ hreset hr).trans hw)
  | softReset _ hr | powerOn _ hr => exact Or.inr (Or.inl hr)

/-- Settles O19: each named register is held while busy, and every form of a step but three keeps `WDROP`. -/
theorem busyWritesAreDropped : Obligations.BusyWritesAreDropped := by
  refine ⟨fun s off v rest hb hoff hf => ?_, fun s t hw h => (stepForm_of_step s t h).wdrop_sticky hw⟩
  obtain ⟨r, -, hr, rfl⟩ := heldWhileBusy_offsets off hoff
  exact step_dropReg s r v rest hb hr hf

/-! ## DONE (R27) -/

/-- Whatever ends a pending command sets `DONE`. -/
theorem engineStep_done (s t : State) (hb : s.busy = true)
    (h : engineStep Config.params exec s = .next t) : t.done = true := by
  rcases engineStep_next Config.params exec s t h with ⟨hidle, -⟩ | ⟨-, -, rfl⟩ | ⟨-, -, rfl⟩ | ⟨-, i, -, hrun⟩
  · exact absurd hb (by simp [hidle])
  · rfl
  · rfl
  · exact execWith_done Config.params i s t (exec_eq_execWith i s ▸ hrun)

/-- Settles O29, from what acceptance, completion and the write of `STATUS` do to `DONE`. -/
theorem doneFlagLifeCycle : Obligations.DoneFlagLifeCycle := by
  refine ⟨fun s w rest hb hf => ?_, fun s t rest hb turn h => ?_, fun s v rest hf => ?_, State.irq_iff⟩
  · exact ⟨_, step_putReg s .cmd w rest (Or.inl hb) hf, rfl⟩
  · exact engineStep_done { s with inputs := rest } t hb (step_engineTurn s rest turn ▸ h)
  · refine ⟨_, step_putReg s .status v rest (Or.inr rfl) hf, ?_⟩
    rw [State.putReg, State.writeStatus_done]
    cases v.getLsbD 1 <;> simp

/-! ## ANN_VALID (R28) -/

/-- `ANN_VALID` rises only by an ENCRYPT that produces a keep-alive value, on every implementation. -/
theorem StepForm.annValid_rises {P : Params} {s t : State} (h : StepForm P s t) (h0 : s.annValid = false)
    (h1 : t.annValid = true) : s.announcesInto P t := by
  cases h with
  | completes rest i _ hi hrun =>
    obtain ⟨c, d, rfl, hcode, hen, hval, hmod⟩ := execWith_annValid _ _ _ _ hrun h1
    exact ⟨c, d, hi, hcode, by cases c <;> exact hen, by cases c <;> exact hval, hmod⟩
  | put rest r v ha hfree hreset =>
    exact absurd h1 (by simp [State.putReg_annValid P { s with inputs := rest } v r hreset h0])
  | idle | answered | stored | ignored | dropped => exact absurd (h0.symm.trans h1) nofun
  | rejected | softReset | powerOn => cases h1

/-- Settles O30, by the forms of a step: the announce step alone raises `ANN_VALID`. -/
theorem announceOnlyByEncrypt : Obligations.AnnounceOnlyByEncrypt := by
  refine ⟨fun s w rest hb hf => ?_, fun s t h => (stepForm_of_step s t h).annValid_rises,
    fun P s t h => (stepForm_of_stepOn P s t h).annValid_rises⟩
  exact ⟨_, step_putReg s .cmd w rest (Or.inl hb) hf, rfl⟩

/-! ## The vector (R46) -/

theorem State.ctx_inputs (s : State) (rest : List Event) (c : CtxId) :
    State.ctx { s with inputs := rest } c = s.ctx c := by
  cases c <;> rfl

/-- What a step can do to the vector of a context, on every implementation. -/
theorem StepForm.vector_changes {P : Params} {s t : State} (h : StepForm P s t) (c : CtxId) :
    (t.ctx c).vector = (s.ctx c).vector ∨
    (s.completesNext P (.setVector c) ∧ (t.ctx c).vector = s.value) ∨
    ((s.completesNext P (.ivShuffle c) ∨ s.completesNext P (.xform c) ∨ (∃ d, s.completesNext P (.encrypt c d)) ∨
        s.completesNext P (.decrypt c)) ∧ (t.ctx c).vector = shuffle P (s.ctx c).vector) ∨
    (s.completesNext P (.ctxInit c) ∧ (t.ctx c).vector = 0) ∨
    (s.resetsNext ∧ (t.ctx c).vector = 0) := by
  cases h with
  | completes rest i _ hi hrun =>
    have change := execWith_ctx P i _ t c hrun
    simp only [ContextChange, State.ctx_inputs] at change
    rcases change with hk | ⟨hfour, -, hk⟩ | ⟨rfl, hk⟩ | ⟨rfl, hk⟩ <;> simp only [hk]
    · exact Or.inl trivial
    · refine Or.inr (Or.inr (Or.inl ⟨?_, trivial⟩))
      rcases hfour with rfl | rfl | ⟨d, rfl⟩ | rfl
      · exact Or.inl hi
      · exact Or.inr (Or.inl hi)
      · exact Or.inr (Or.inr (Or.inl ⟨d, hi⟩))
      · exact Or.inr (Or.inr (Or.inr hi))
    · exact Or.inr (Or.inl ⟨hi, trivial⟩)
    · exact Or.inr (Or.inr (Or.inr (Or.inl ⟨hi, trivial⟩)))
  | put rest r v ha hfree hreset =>
    exact Or.inl ((State.putReg_vector P _ v r c hreset).trans (by rw [State.ctx_inputs]))
  | softReset _ hr | powerOn _ hr =>
    exact Or.inr (Or.inr (Or.inr (Or.inr ⟨hr, by simp [Context.reset]⟩)))
  | idle | rejected | answered | stored | ignored | dropped => exact Or.inl (by simp [State.ctx_inputs])

/-- Settles O39, by the forms of a step and what a command does to a context record. -/
theorem vectorChangesFourWays : Obligations.VectorChangesFourWays :=
  fun s t c h => (stepForm_of_step s t h).vector_changes c

end Sys2Proof.Machine
end

section
/-! SUPPORT. The decoder and the encoder by the steps of R96: the opcode map, the decoded word, the round trip. -/

namespace Sys2Proof

/-! ## Fields and bits -/

theorem ctxOfBit_bit (b : Bool) : (ctxOfBit b).bit = b := by
  cases b <;> rfl

theorem dirOfBit_bit (b : Bool) : (dirOfBit b).bit = b := by
  cases b <;> rfl

/-- Reading the fields of a word made from its fields (R90). -/
theorem cmdFields_cmdWord (f : Cmd32) : cmdFields (cmdWord f) = f := by
  obtain ⟨op, ctx, dir, reserved⟩ := f
  have hop : (cmdWord ⟨op, ctx, dir, reserved⟩).extractLsb' 0 8 = op := by
    refine BitVec.eq_of_getLsbD_eq fun i hi => ?_
    simp [cmdWord_getLsbD, hi]
  have hreserved : (cmdWord ⟨op, ctx, dir, reserved⟩).extractLsb' 10 22 = reserved := by
    refine BitVec.eq_of_getLsbD_eq fun i hi => ?_
    simp [cmdWord_getLsbD, hi, show ¬ 10 + i < 8 by omega, show 10 + i ≠ 8 by omega, show 10 + i ≠ 9 by omega]
  rw [cmdFields, hop, hreserved, cmdWord_getLsbD, cmdWord_getLsbD]
  rfl

/-! ## The opcode map (R97) -/

/-- R91: an opcode from 0x0C on is reserved. -/
theorem opcodeMap_reserved (op : Byte) (c : CtxId) (d : Dir) (h : 0x0C ≤ op.toNat) : opcodeMap op c d = none := by
  unfold opcodeMap
  split
  case h_13 => rfl
  all_goals omega

/-- R91: an opcode below 0x0C selects the command that has it, with the context and the direction if it reads them. -/
theorem opcodeMap_assigned (op : Byte) (c : CtxId) (d : Dir) (h : op.toNat < 0x0C) :
    ∃ i, opcodeMap op c d = some i ∧ i.opcode.toNat = op.toNat ∧ (∀ b, i.ctxBit = some b → b = c.bit) ∧
      ∀ b, i.dirBit = some b → b = d.bit := by
  unfold opcodeMap
  split
  case h_13 => grind
  all_goals
    rename_i hop
    exact ⟨_, rfl, hop.symm, by simp [Instr.ctxBit, eq_comm], by simp [Instr.dirBit, eq_comm]⟩

/-- The map gives a command back from its opcode and the bits it carries. -/
theorem opcodeMap_opcode (i : Instr) :
    opcodeMap i.opcode (ctxOfBit (i.ctxBit.getD false)) (dirOfBit (i.dirBit.getD false)) = some i := by
  cases i with
  | nop | pktLen | hsStrip | shandaEnc | shandaDec => rfl
  | ctxInit c | setVector c | ivShuffle c | xform c | decrypt c => cases c <;> rfl
  | hdrBuild c d | encrypt c d => cases c <;> cases d <;> rfl

/-- R96 step 2, on the command: the opcodes 0x0A and 0x0B are the ones an implementation may lack. -/
theorem Instr.wellFormed_eq_false_iff (P : Params) (i : Instr) :
    i.wellFormed P = false ↔ (i.opcode.toNat = 0x0A ∨ i.opcode.toNat = 0x0B) ∧ P.hasShanda = false := by
  cases i <;> simp [Instr.wellFormed, Instr.needsShanda, Instr.opcode]

/-! ## The decoding steps (R96) -/

/-- R96 step 1. -/
theorem decodeWord_reservedOpcode (P : Params) (w : Word) (h : 0x0C ≤ (w.extractLsb' 0 8).toNat) :
    decodeWord P w = .error .illegalOp := by
  simp [decodeWord, cmdFields, opcodeMap_reserved _ _ _ h]

/-- R96 steps 2 to 4, for a word whose opcode the map knows. -/
theorem decodeWord_of_opcodeMap (P : Params) (w : Word) (i : Instr)
    (h : opcodeMap (w.extractLsb' 0 8) (ctxOfBit (w.getLsbD 8)) (dirOfBit (w.getLsbD 9)) = some i) :
    decodeWord P w =
      if i.wellFormed P = false then .error .illegalOp
      else if w.extractLsb' 10 22 ≠ 0 then .error .reservedBits
      else .ok i := by
  simp only [decodeWord, cmdFields, h]
  simp [Cmd32.reservedClear]

/-- R96 steps 2 to 4: an assigned opcode names a command with the word's `CTX` and `DIR`, and the word is that command
unless the implementation lacks it or a reserved bit is set. -/
theorem decodeWord_assignedOpcode (P : Params) (w : Word) (h : (w.extractLsb' 0 8).toNat < 0x0C) :
    ∃ i : Instr, i.opcode.toNat = (w.extractLsb' 0 8).toNat ∧ (∀ b, i.ctxBit = some b → b = w.getLsbD 8) ∧
      (∀ b, i.dirBit = some b → b = w.getLsbD 9) ∧
      decodeWord P w =
        if i.wellFormed P = false then .error .illegalOp
        else if w.extractLsb' 10 22 ≠ 0 then .error .reservedBits
        else .ok i := by
  obtain ⟨i, hmap, hop, hctx, hdir⟩ :=
    opcodeMap_assigned _ (ctxOfBit (w.getLsbD 8)) (dirOfBit (w.getLsbD 9)) h
  rw [ctxOfBit_bit] at hctx
  rw [dirOfBit_bit] at hdir
  exact ⟨i, hop, hctx, hdir, decodeWord_of_opcodeMap P w i hmap⟩

/-! ## Decoding an encoded command -/

/-- On an implementation that has the command, its word decodes to it. -/
theorem decodeWord_encode (P : Params) (i : Instr) (h : i.wellFormed P = true) : decodeWord P (encode i) = .ok i := by
  simp [decodeWord, encode, cmdFields_cmdWord, opcodeMap_opcode, h, Cmd32.reservedClear]

/-- The default implementation has every command. -/
theorem Instr.wellFormed_default (i : Instr) : i.wellFormed Config.params = true :=
  Bool.or_true _

/-- A 32-bit row of the table is read as the word it is. -/
theorem decodeTableWord_of_decodeWord (w : Word) (i : Instr) (h : decodeWord Config.params w = .ok i) :
    decodeTableWord 32 w.toNat = some i := by
  have hw : BitVec.ofNat 32 (w.toNat % 2 ^ 32) = w := by
    rw [Nat.mod_eq_of_lt w.isLt, BitVec.ofNat_toNat, BitVec.setWidth_eq]
  rw [decodeTableWord, hw, h]

theorem decodeTableWord_encode (i : Instr) : decodeTableWord 32 (encode i).toNat = some i :=
  decodeTableWord_of_decodeWord _ i (decodeWord_encode _ i i.wellFormed_default)

end Sys2Proof

namespace Sys2Proof.Machine

/-! ## The engine's turn with a command pending -/

/-- At the engine's turn with a command pending the step is the completion of that command, on every implementation. -/
theorem stepOn_pending (P : Params) (run : Instr → State → Host.Outcome State Fault Refusal) (s : State)
    (rest : List Event) (hb : s.busy = true) (turn : s.engineTurn rest) :
    stepOn P run s = complete P run { s with inputs := rest } := by
  rcases turn with ⟨hi, rfl⟩ | hi
  · rw [show { s with inputs := [] } = s by rw [← hi]]
    simp [stepOn, engineStep, hi, hb]
  · simp [stepOn, engineStep, hi, hb]

/-- R96 step 4: a pending word that decodes runs its command. -/
theorem complete_of_ok (P : Params) (run : Instr → State → Host.Outcome State Fault Refusal) (s : State) (i : Instr)
    (h : decodeWord P s.cmd = .ok i) : complete P run s = run i s := by
  rw [complete, h]

/-- R96 steps 1 and 2: such a pending word only ends, with its code (R223). -/
theorem complete_of_illegalOp (P : Params) (run : Instr → State → Host.Outcome State Fault Refusal) (s : State)
    (h : decodeWord P s.cmd = .error .illegalOp) : complete P run s = .next (s.failed .illegalOp) := by
  rw [complete, h]
  rfl

/-- R96 step 3: such a pending word only ends, with its code (R223). -/
theorem complete_of_reservedBits (P : Params) (run : Instr → State → Host.Outcome State Fault Refusal) (s : State)
    (h : decodeWord P s.cmd = .error .reservedBits) : complete P run s = .next (s.failed .reservedBits) := by
  rw [complete, h]
  rfl

end Sys2Proof.Machine
end

section
/-! The statements of 30_encoding.md. -/

namespace Sys2Proof.Machine

/-- Settles O6: the step is the completion of `CMD`, and the decoding steps of R96 say which completion it is. -/
theorem commandWordOutcomes : Obligations.CommandWordOutcomes := by
  refine ⟨step_eq_stepOn, fun P s rest hb turn => ?_⟩
  rw [stepOn_pending P _ s rest hb turn]
  refine ⟨fun h => complete_of_illegalOp P _ { s with inputs := rest } ?_, fun hop hpresent hbits => ?_,
    fun hop hpresent hbits => ?_⟩
  · by_cases hop : 0x0C ≤ (s.cmd.extractLsb' 0 8).toNat
    · exact decodeWord_reservedOpcode P s.cmd hop
    · obtain ⟨i, hi, -, -, hdec⟩ := decodeWord_assignedOpcode P s.cmd (by omega)
      rw [← hi] at h hop
      rw [hdec, if_pos ((i.wellFormed_eq_false_iff P).mpr (h.resolve_left hop))]
  · obtain ⟨i, hi, -, -, hdec⟩ := decodeWord_assignedOpcode P s.cmd hop
    rw [← hi, ← i.wellFormed_eq_false_iff P] at hpresent
    rw [if_neg hpresent, if_pos hbits] at hdec
    exact complete_of_reservedBits P _ { s with inputs := rest } hdec
  · obtain ⟨i, hi, hctx, hdir, hdec⟩ := decodeWord_assignedOpcode P s.cmd hop
    rw [← hi, ← i.wellFormed_eq_false_iff P] at hpresent
    rw [if_neg hpresent, if_neg (not_not_intro hbits)] at hdec
    exact ⟨i, hi, hctx, hdir, complete_of_ok P _ { s with inputs := rest } i hdec⟩

/-- Settles O1: the words are computed, each then decodes by the round trip, and the last three rows are the two
rejections of R96 and a word with ignored bits set. -/
theorem encodingExamplesDecode : Obligations.EncodingExamplesDecode := by
  refine ⟨rfl, rfl, rfl, rfl, rfl, rfl, rfl, rfl, rfl, rfl, rfl, rfl, rfl, ?_⟩
  exact ⟨decodeTableWord_encode .nop, decodeTableWord_encode (.ctxInit .ctx1),
    decodeTableWord_encode (.setVector .ctx0), decodeTableWord_encode (.ivShuffle .ctx1),
    decodeTableWord_encode (.hdrBuild .ctx0 .tc1),
    decodeTableWord_encode .pktLen, decodeTableWord_encode (.xform .ctx1), decodeTableWord_encode (.encrypt .ctx0 .tc0),
    decodeTableWord_encode (.encrypt .ctx1 .tc1), decodeTableWord_encode (.decrypt .ctx1),
    decodeTableWord_encode .hsStrip, decodeTableWord_encode .shandaEnc, decodeTableWord_encode .shandaDec,
    decodeWord_reservedOpcode _ _ (by decide), decodeWord_of_opcodeMap _ 0x00000407 (.encrypt .ctx0 .tc0) rfl,
    decodeTableWord_of_decodeWord 0x00000305 .pktLen (decodeWord_of_opcodeMap _ 0x00000305 .pktLen rfl)⟩

end Sys2Proof.Machine
end

section
/-! SUPPORT. The words of every command, what a completion leaves unchanged, and what reads the staged key. -/

namespace Sys2Proof

/-! ## The words of a command -/

theorem CtxId.bit_injective : Function.Injective CtxId.bit :=
  Function.LeftInverse.injective (g := ctxOfBit) fun c => by cases c <;> rfl

theorem Dir.bit_injective : Function.Injective Dir.bit :=
  Function.LeftInverse.injective (g := dirOfBit) fun d => by cases d <;> rfl

/-- R97: the map gives a command exactly on its opcode, with the context and the direction it reads. -/
theorem opcodeMap_eq_some_iff (op : Byte) (c : CtxId) (d : Dir) (i : Instr) :
    opcodeMap op c d = some i ↔
      op = i.opcode ∧ (∀ b, i.ctxBit = some b → c.bit = b) ∧ ∀ b, i.dirBit = some b → d.bit = b := by
  constructor
  · intro h
    have hop : op.toNat < 0x0C := by
      by_contra hge
      rw [opcodeMap_reserved op c d (by omega)] at h
      cases h
    obtain ⟨j, hj, hopcode, hctx, hdir⟩ := opcodeMap_assigned op c d hop
    obtain rfl : j = i := Option.some.inj (hj.symm.trans h)
    exact ⟨(BitVec.eq_of_toNat_eq hopcode).symm, fun b hb => (hctx b hb).symm, fun b hb => (hdir b hb).symm⟩
  · rintro ⟨rfl, hctx, hdir⟩
    cases i with
    | nop | pktLen | hsStrip | shandaEnc | shandaDec => rfl
    | ctxInit c' | setVector c' | ivShuffle c' | xform c' | decrypt c' =>
      obtain rfl := CtxId.bit_injective (hctx _ rfl)
      rfl
    | hdrBuild c' d' | encrypt c' d' =>
      obtain rfl := CtxId.bit_injective (hctx _ rfl)
      obtain rfl := Dir.bit_injective (hdir _ rfl)
      rfl

/-- R96 step 4, for every word: it is a command of the map that the implementation has, and its reserved bits are 0. -/
theorem decodeWord_eq_ok_iff (P : Params) (w : Word) (i : Instr) :
    decodeWord P w = .ok i ↔
      opcodeMap (w.extractLsb' 0 8) (ctxOfBit (w.getLsbD 8)) (dirOfBit (w.getLsbD 9)) = some i ∧
        i.wellFormed P = true ∧ w.extractLsb' 10 22 = 0 := by
  cases h : opcodeMap (w.extractLsb' 0 8) (ctxOfBit (w.getLsbD 8)) (dirOfBit (w.getLsbD 9)) with
  | none => simp only [decodeWord, cmdFields, h, reduceCtorEq, false_and]
  | some j =>
    rw [decodeWord_of_opcodeMap P w j h, Option.some.injEq]
    split_ifs with hlacks hbits
    · exact iff_of_false nofun fun ⟨hj, hhas, _⟩ => Bool.eq_false_iff.mp hlacks (hj ▸ hhas)
    · exact iff_of_false nofun fun ⟨_, _, hclear⟩ => hbits hclear
    · rw [Except.ok.injEq, iff_self_and]
      rintro rfl
      exact ⟨Bool.eq_true_of_not_eq_false hlacks, not_not.mp hbits⟩

/-- R96 step 2, on the command: it is available unless it has a Shanda opcode and the implementation lacks the pass. -/
theorem Instr.wellFormed_iff (P : Params) (i : Instr) :
    i.wellFormed P = true ↔ (i.opcode = 0x0A ∨ i.opcode = 0x0B → P.hasShanda = true) := by
  cases i <;> simp [Instr.wellFormed, Instr.needsShanda, Instr.opcode]

end Sys2Proof

namespace Sys2Proof.Machine

/-- The words of every command are those with its opcode, the bits it reads, and reserved bits 0 (R90 to R97). -/
theorem encodedBy_fields (i : Instr) : encodedBy i i.opcode i.ctxBit i.dirBit := by
  intro P w
  rw [decodeWord_eq_ok_iff, opcodeMap_eq_some_iff, Instr.wellFormed_iff, ctxOfBit_bit, dirOfBit_bit]
  tauto

/-! ## What an OK completion leaves unchanged -/

theorem okFrame_committed (s : State) (c : CtxId) (k : Context) (bs : List Byte) (r : Word) :
    s.okFrame (committed s c k bs r) r := by
  cases c <;> rfl

theorem otherCtxKept_committed (s : State) (c : CtxId) (k : Context) (bs : List Byte) (r : Word) :
    s.otherCtxKept (committed s c k bs r) c := by
  intro c' hc
  simp [committed, State.setCtx_ctx_other s c c' k hc]

theorem committed_ctx_same (s : State) (c : CtxId) (k : Context) (bs : List Byte) (r : Word) :
    (committed s c k bs r).ctx c = k := by
  simp [committed]

/-! ## The expanded key (R121, R123) -/

/-- R121, by groups of four bytes: byte i of the key, then three zeros. -/
theorem expandKey_group (K : BitVec 64) (i r : Nat) (hi : i < 8) (hr : r < 4) :
    (expandKey K)[4 * i + r] = if r = 0 then keyByte K i else 0 := by
  interval_cases i <;> interval_cases r <;> rfl

theorem Context.reset_ek_zero (j : Nat) (h : j < 32) : Context.reset.ek[j] = 0 := by
  interval_cases j <;> rfl

/-- No register write but a soft reset touches more of a context record than its configuration (R41). -/
theorem State.putReg_ctx (P : Params) (s : State) (v : Word) (r : Reg) (c : CtxId)
    (hreset : ¬ (r = .ctrl ∧ v.getLsbD 1 = true)) :
    (s.putReg P v r).ctx c = s.ctx c ∨ (s.putReg P v r).ctx c = (s.ctx c).writeCfg P v := by
  cases r with
  | ctrl =>
    rw [State.putReg, State.writeCtrl_keep P s v (by simpa using hreset)]
    cases c <;> exact Or.inl rfl
  | ctxCfg c' =>
    by_cases hc : c = c'
    · subst hc
      exact Or.inr (State.setCtx_ctx_same ..)
    · exact Or.inl (State.setCtx_ctx_other _ _ _ _ hc)
  | _ => cases c <;> exact Or.inl rfl

theorem ContextChange.ek {P : Params} {i : Instr} {s : State} {c : CtxId} {k : Context}
    (h : ContextChange P i s c k) : k.ek = (s.ctx c).ek ∨ i = .ctxInit c ∧ k.ek = expandKey s.stagedKey := by
  rcases h with rfl | ⟨-, -, rfl⟩ | ⟨-, rfl⟩ | ⟨hi, rfl⟩
  · exact Or.inl rfl
  · exact Or.inl rfl
  · exact Or.inl rfl
  · exact Or.inr ⟨hi, rfl⟩

/-- What a step can do to the expanded key of a context, on every implementation. -/
theorem StepForm.ek_changes {P : Params} {s t : State} (h : StepForm P s t) (c : CtxId) :
    (t.ctx c).ek = (s.ctx c).ek ∨
    (s.completesNext P (.ctxInit c) ∧ (t.ctx c).ek = expandKey s.stagedKey) ∨
    (s.resetsNext ∧ t.ctx c = Context.reset) := by
  cases h with
  | completes rest i _ hi hrun =>
    rcases (execWith_ctx P i _ t c hrun).ek with hk | ⟨rfl, hk⟩
    · exact Or.inl (hk.trans (by rw [State.ctx_inputs]))
    · exact Or.inr (Or.inl ⟨hi, hk⟩)
  | put rest r v ha hfree hreset =>
    rcases State.putReg_ctx P { s with inputs := rest } v r c hreset with hk | hk
    · exact Or.inl (by rw [hk, State.ctx_inputs])
    · exact Or.inl (by rw [hk, State.ctx_inputs]; rfl)
  | softReset _ hr => exact Or.inr (Or.inr ⟨hr, softReset_ctx ..⟩)
  | powerOn _ hr => exact Or.inr (Or.inr ⟨hr, powerOnReset_ctx ..⟩)
  | idle | rejected | answered | stored | ignored | dropped => exact Or.inl (by simp [State.ctx_inputs])

/-! ## Another staged key

Every operation a command is made of, but the reading of the staged key, commutes with `State.restage`. -/

@[simp] theorem State.restage_len (s : State) (lo hi : Word) : (s.restage lo hi).len = s.len := rfl
@[simp] theorem State.restage_value (s : State) (lo hi : Word) : (s.restage lo hi).value = s.value := rfl
@[simp] theorem State.restage_mem (s : State) (lo hi : Word) : (s.restage lo hi).mem = s.mem := rfl
@[simp] theorem State.restage_srcOff (s : State) (lo hi : Word) : (s.restage lo hi).srcOff = s.srcOff := rfl
@[simp] theorem State.restage_dstOff (s : State) (lo hi : Word) : (s.restage lo hi).dstOff = s.dstOff := rfl
@[simp] theorem State.restage_lenNat (s : State) (lo hi : Word) : (s.restage lo hi).lenNat = s.lenNat := rfl
@[simp] theorem State.restage_ctx (s : State) (lo hi : Word) (c : CtxId) : (s.restage lo hi).ctx c = s.ctx c := by
  cases c <;> rfl

@[simp] theorem ivShuffleCheck_restage (s : State) (lo hi : Word) (c : CtxId) :
    ivShuffleCheck c (s.restage lo hi) = ivShuffleCheck c s := by
  cases c <;> rfl
@[simp] theorem hdrBuildCheck_restage (P : Params) (s : State) (lo hi : Word) (c : CtxId) :
    hdrBuildCheck P c (s.restage lo hi) = hdrBuildCheck P c s := by
  cases c <;> rfl
@[simp] theorem pktLenCheck_restage (P : Params) (s : State) (lo hi : Word) :
    pktLenCheck P (s.restage lo hi) = pktLenCheck P s := rfl
@[simp] theorem xformCheck_restage (P : Params) (s : State) (lo hi : Word) (c : CtxId) :
    xformCheck P c (s.restage lo hi) = xformCheck P c s := by
  cases c <;> rfl
@[simp] theorem encryptCheck_restage (P : Params) (s : State) (lo hi : Word) (c : CtxId) :
    encryptCheck P c (s.restage lo hi) = encryptCheck P c s := by
  cases c <;> rfl
@[simp] theorem decryptCheck_restage (P : Params) (s : State) (lo hi : Word) (c : CtxId) :
    decryptCheck P c (s.restage lo hi) = decryptCheck P c s := by
  cases c <;> rfl
@[simp] theorem bodyCheck_restage (P : Params) (hdr m : Nat) (s : State) (lo hi : Word) :
    bodyCheck P hdr m (s.restage lo hi) = bodyCheck P hdr m s := rfl
@[simp] theorem hsStripCheck_restage (P : Params) (s : State) (lo hi : Word) :
    hsStripCheck P (s.restage lo hi) = hsStripCheck P s := rfl
@[simp] theorem shandaCheck_restage (P : Params) (s : State) (lo hi : Word) :
    shandaCheck P (s.restage lo hi) = shandaCheck P s := rfl

@[simp] theorem State.setCtx_restage (s : State) (lo hi : Word) (c : CtxId) (k : Context) :
    (s.restage lo hi).setCtx c k = (s.setCtx c k).restage lo hi := by
  cases c <;> rfl
@[simp] theorem State.setVectorOf_restage (s : State) (lo hi : Word) (c : CtxId) (v : Word) :
    (s.restage lo hi).setVectorOf c v = (s.setVectorOf c v).restage lo hi := by
  simp [State.setVectorOf_eq]
@[simp] theorem State.store_restage (s : State) (lo hi : Word) (off : Nat) (bs : List Byte) :
    (s.restage lo hi).store off bs = (s.store off bs).restage lo hi := rfl
@[simp] theorem State.finish_restage (s : State) (lo hi : Word) (code : Code) (r : Word) :
    (s.restage lo hi).finish code r = (s.finish code r).restage lo hi := rfl
@[simp] theorem State.announceStep_restage (s : State) (lo hi : Word) (c : CtxId) :
    (s.restage lo hi).announceStep c = (s.announceStep c).restage lo hi := by
  simp only [State.announceStep, State.restage_ctx]
  split <;> rfl

/-- The same outcome with another staged key in its state. -/
def restageOutcome (lo hi : Word) : Host.Outcome State Fault Refusal → Host.Outcome State Fault Refusal
  | .next t => .next (t.restage lo hi)
  | .fault f => .fault f
  | .refused r => .refused r

theorem next_restage (s : State) (lo hi : Word) :
    (.next (s.restage lo hi) : Host.Outcome State Fault Refusal) = restageOutcome lo hi (.next s) := rfl

@[simp] theorem endOk_restage (s : State) (lo hi : Word) (r : Word) :
    endOk r (s.restage lo hi) = restageOutcome lo hi (endOk r s) := rfl

@[simp] theorem checked_restage (check : Code) (s : State) (lo hi : Word)
    (rest : Unit → Host.Outcome State Fault Refusal) :
    checked check (s.restage lo hi) (fun u => restageOutcome lo hi (rest u)) =
      restageOutcome lo hi (checked check s rest) := by
  cases check <;> rfl

@[simp] theorem withBytes_restage (s : State) (lo hi : Word) (off n : Nat)
    (rest : List Byte → Host.Outcome State Fault Refusal) :
    withBytes (s.restage lo hi) off n (fun bs => restageOutcome lo hi (rest bs)) =
      restageOutcome lo hi (withBytes s off n rest) := by
  simp only [withBytes, State.restage_mem]
  cases s.mem.readBytes off n <;> rfl

/-- R123: with another staged key, every command but CTX_INIT has the same outcome, that key still staged, on every
implementation. -/
theorem execWith_restage (P : Params) (i : Instr) (s : State) (lo hi : Word) (h : ∀ c, i ≠ .ctxInit c) :
    execWith P i (s.restage lo hi) = restageOutcome lo hi (execWith P i s) := by
  cases i with
  | nop => rfl
  | ctxInit c => exact absurd rfl (h c)
  | setVector c => simp [execWith, execSetVector]
  | ivShuffle c => simp [execWith, execIvShuffle]
  | hdrBuild c d => simp [execWith, execHdrBuild]
  | pktLen => simp [execWith, execPktLen]
  | xform c => simp [execWith, execXform]
  | encrypt c d => simp [execWith, execEncrypt, next_restage]
  | decrypt c => simp [execWith, execDecrypt]
  | hsStrip => simp [execWith, execHsStrip]
  | shandaEnc => simp [execWith, execShandaEnc]
  | shandaDec => simp [execWith, execShandaDec]

end Sys2Proof.Machine
end

section
/-! The statements of 40_control.md. -/

namespace Sys2Proof.Machine

/-- Settles O32: byte j is the byte j % 4 of the group j / 4. -/
theorem expandedKeyBytes : Obligations.ExpandedKeyBytes := by
  refine ⟨fun K j h => ?_, rfl⟩
  have group := expandKey_group K (j / 4) (j % 4) (by omega) (by omega)
  simp only [Nat.div_add_mod] at group
  rw [group]
  by_cases hj : j % 4 = 0
  · rw [if_pos hj, if_pos hj, keyByte, show 8 * (j / 4) = 2 * j by omega]
  · rw [if_neg hj, if_neg hj]

/-- Settles O33: the command commits the new context record, and nothing else. -/
theorem ctxInitCompletes : Obligations.CtxInitCompletes :=
  fun c => ⟨encodedBy_fields (.ctxInit c), fun s => ⟨committed s c _ [] 0, rfl, okFrame_committed ..,
    State.setCtx_mem .., otherCtxKept_committed s c _ [] 0, committed_ctx_same ..⟩⟩

/-- Settles O34: the forms of a step for the expanded key, and `execWith_restage` for the staged one. -/
theorem keyChangesOnlyByCtxInit : Obligations.KeyChangesOnlyByCtxInit := by
  refine ⟨fun s t c h => ?_, fun i s lo hi hne => ?_⟩
  · refine ((stepForm_of_step s t h).ek_changes c).imp_right (Or.imp_right fun ⟨hr, hk⟩ => ⟨hr, fun j hj => ?_⟩)
    simp only [hk]
    exact Context.reset_ek_zero j hj
  · simp only [exec_eq_execWith, execWith_restage _ i s lo hi hne]
    exact ⟨fun t ht => by rw [ht]; rfl, fun f hf => by rw [hf]; rfl⟩

/-- Settles O31: the command only ends. -/
theorem nopCompletes : Obligations.NopCompletes :=
  ⟨encodedBy_fields .nop, fun s => ⟨s.finish .ok 0, rfl, rfl, Bool.and_true _⟩⟩

end Sys2Proof.Machine
end

section
/-! SUPPORT. The shuffle's working key byte by byte, and what the end of a command does to the vectors. -/

namespace Sys2Proof.Machine

/-! ## The working key (R145, R147) -/

/-- R11: the bytes of a word made from four bytes. -/
theorem byteOf_wordOf (b0 b1 b2 b3 : Byte) :
    byteOf (wordOf b0 b1 b2 b3) 0 = b0 ∧ byteOf (wordOf b0 b1 b2 b3) 1 = b1 ∧
    byteOf (wordOf b0 b1 b2 b3) 2 = b2 ∧ byteOf (wordOf b0 b1 b2 b3) 3 = b3 := by
  simp (disch := decide) only [byteOf, wordOf, BitVec.extractLsb'_append_eq_of_le,
    BitVec.extractLsb'_append_eq_of_add_le]
  exact ⟨BitVec.extractLsb'_eq_self, BitVec.extractLsb'_eq_self, BitVec.extractLsb'_eq_self, BitVec.extractLsb'_eq_self⟩

/-- Replacing a byte of the working key changes that byte alone. -/
theorem keyByteAt_setByte (K : Word) (i j : Nat) (b : Byte) (hi : i < 4) :
    keyByteAt (setByte K j b) i = if j = i then b else keyByteAt K i := by
  obtain ⟨h0, h1, h2, h3⟩ := byteOf_wordOf (if j = 0 then b else keyByteAt K 0) (if j = 1 then b else keyByteAt K 1)
    (if j = 2 then b else keyByteAt K 2) (if j = 3 then b else keyByteAt K 3)
  match i, hi with
  | 0, _ => exact h0
  | 1, _ => exact h1
  | 2, _ => exact h2
  | 3, _ => exact h3

theorem setByte_last (K : Word) (b : Byte) :
    setByte K 3 b = wordOf (keyByteAt K 0) (keyByteAt K 1) (keyByteAt K 2) b := rfl

/-- R147, on every working key: an update reads no byte that an update before it in the same step has replaced, but for
key byte 0 in the last one, which `P_K3_K0` names. -/
theorem sequentialStep_eq_shuffleStep (P : Params) (K : Word) (b : Byte) :
    sequentialStep P K b = shuffleStep P K b := by
  have byteOf_eq : byteOf K = keyByteAt K := rfl
  cases hk : P.k3k0 <;>
    simp (disch := decide) only [sequentialStep, shuffleStep, rol32, byteOf_eq, setByte_last, keyByteAt_setByte, hk,
      Nat.reduceEqDiff, OfNat.ofNat_ne_zero, reduceIte]

/-! ## The vector at the end of a command (R150) -/

/-- A command that ends with an error code keeps every context record (R223). -/
theorem execWith_ctx_of_failed (P : Params) (i : Instr) (s t : State) (c : CtxId) (h : execWith P i s = .next t)
    (hcode : t.code ≠ .ok) : t.ctx c = s.ctx c := by
  rcases execWith_next P i s t h with ⟨code, -, rfl, -⟩ | ⟨c', k, bs, r, -, -, -, rfl | ⟨-, rfl⟩⟩
  · exact State.finish_ctx ..
  · exact absurd rfl hcode
  · exact absurd (State.announceStep_code ..) hcode

/-- A shuffling command that ends OK has shuffled the vector of its context once. -/
theorem execWith_shuffled (P : Params) (i : Instr) (s t : State) (c : CtxId) (h : execWith P i s = .next t)
    (hi : i = .ivShuffle c ∨ i = .xform c ∨ (∃ d, i = .encrypt c d) ∨ i = .decrypt c) (hcode : t.code = .ok) :
    (t.ctx c).vector = shuffle P (s.ctx c).vector := by
  rcases hi with rfl | rfl | ⟨d, rfl⟩ | rfl
  · rcases execIvShuffle_next P c s t h with ⟨hc, rfl⟩ | ⟨-, rfl⟩
    · exact absurd hcode hc
    · simp
  · rcases execXform_next P c s t h with ⟨hc, rfl⟩ | ⟨-, body, -, rfl⟩
    · exact absurd hcode hc
    · simp
  · rcases execEncrypt_next P c d s t h with ⟨hc, rfl⟩ | ⟨-, body, -, rfl⟩
    · exact absurd hcode hc
    · simp
  · rcases execDecrypt_next P c s t h with ⟨hc, rfl⟩ | ⟨-, hdr, -, ⟨hm, rfl⟩ | ⟨-, body, -, rfl⟩⟩
    · exact absurd hcode hc
    · exact absurd hcode hm
    · simp

/-- A command but the four that shuffle, SET_VECTOR and CTX_INIT keeps the vector. -/
theorem execWith_vector_kept (P : Params) (i : Instr) (s t : State) (c : CtxId) (h : execWith P i s = .next t)
    (hi : ¬ (i = .ivShuffle c ∨ i = .xform c ∨ (∃ d, i = .encrypt c d) ∨ i = .decrypt c))
    (hset : i ≠ .setVector c) (hinit : i ≠ .ctxInit c) : (t.ctx c).vector = (s.ctx c).vector := by
  rcases execWith_ctx P i s t c h with hk | ⟨hfour, -, -⟩ | ⟨hi', -⟩ | ⟨hi', -⟩
  · rw [hk]
  · exact absurd hfour hi
  · exact absurd hi' hset
  · exact absurd hi' hinit

theorem execSetVector_vector (c : CtxId) (s t : State) (h : execSetVector c s = .next t) :
    (t.ctx c).vector = s.value := by
  rw [(endOk_next ..).mp h, State.finish_ctx, State.setCtx_ctx_same]

theorem execCtxInit_vector (c : CtxId) (s t : State) (h : execCtxInit c s = .next t) : (t.ctx c).vector = 0 := by
  rw [(endOk_next ..).mp h, State.finish_ctx, State.setCtx_ctx_same]

end Sys2Proof.Machine
end

section
/-! The statements of 41_iv_engine.md. -/

namespace Sys2Proof.Machine

/-- Settles O37: byte by byte the two steps agree, and the fold of the shuffle is over the four bytes of its input. -/
theorem shuffleStepIsSequential : Obligations.ShuffleStepIsSequential := by
  refine ⟨fun P K b => (sequentialStep_eq_shuffleStep P K b).symm, fun P v => ?_⟩
  simp only [sequentialStep_eq_shuffleStep]
  rfl

/-- Settles O40, clause by clause, from what the end of each command does to the vectors on every implementation. -/
theorem shuffleOncePerOkCommand : Obligations.ShuffleOncePerOkCommand := by
  intro i s t c h
  rw [exec_eq_execWith] at h
  refine ⟨execWith_shuffled _ i s t c h, fun hcode => ?_, execWith_vector_kept _ i s t c h, ?_, ?_⟩
  · rw [execWith_ctx_of_failed _ i s t c h hcode]
  · rintro rfl
    exact execSetVector_vector c s t h
  · rintro rfl
    exact execCtxInit_vector c s t h

/-- Settles O35: the command commits the new context record, and nothing else. -/
theorem setVectorCompletes : Obligations.SetVectorCompletes :=
  fun c => ⟨encodedBy_fields (.setVector c), fun s => ⟨committed s c _ [] s.value, rfl, okFrame_committed ..,
    State.setCtx_mem .., otherCtxKept_committed s c _ [] s.value, committed_ctx_same ..⟩⟩

end Sys2Proof.Machine
end

section
/-! SUPPORT. The header's bytes, the keystream by body position, and the Shanda passes as inverses. -/

namespace Sys2Proof.Machine

/-! ## The header (R161 to R165) -/

/-- R163: `-(ver + 1)` in 16 bits is the complement of the version. -/
theorem headerBase_eq (ver : Half) (d : Dir) : headerBase ver d = if d = .tc0 then ver else ~~~ver := by
  cases d with
  | tc0 => rfl
  | tc1 =>
    show 0 - (ver + 1) = ~~~ver
    bv_omega

theorem headerBytes_header (ver : Half) (v : Word) (L : Half) (d : Dir) :
    headerBytes (header ver v L d) = wireHeader ver v L d := by
  simp only [header, headerBase_eq]
  rfl

/-- R164 on the bytes of any two header words, through `bytes16` and `le16` being inverse. -/
theorem packetLength_headerBytes (h0 h1 : Half) : packetLength (headerBytes (h0, h1)) = h0 ^^^ h1 := by
  have word (h : Half) : (h.extractLsb' 8 8 ++ h.extractLsb' 0 8 : Half) = h := BitVec.extractLsb'_append_extractLsb'
  calc packetLength (headerBytes (h0, h1))
    _ = (h0.extractLsb' 8 8 ++ h0.extractLsb' 0 8 : Half) ^^^ (h1.extractLsb' 8 8 ++ h1.extractLsb' 0 8 : Half) := rfl
    _ = h0 ^^^ h1 := by rw [word h0, word h1]

theorem packetLength_header (ver : Half) (v : Word) (L : Half) (d : Dir) :
    packetLength (headerBytes (header ver v L d)) = L := by
  rw [header, packetLength_headerBytes, ← BitVec.xor_assoc, BitVec.xor_self, BitVec.zero_xor]

/-! ## The keystream (R170 to R176) -/

/-- The working IV before the byte at chunk offset o: the tiling at a chunk's start, and after that the block that gave
the byte before (R170, R172). -/
def workingIv (P : Params) (ek : ExpandedKey) (v : Word) : Nat → Block
  | 0 => tile v
  | o + 1 => keyBlock P ek v (o / subBlock)

/-- R172: replacing the working IV at the start of each sub-block gives the key block of the offset. -/
theorem keyBlock_of_workingIv (P : Params) (ek : ExpandedKey) (v : Word) (o : Nat) :
    (if o % subBlock = 0 then P.bt ek (workingIv P ek v o) else workingIv P ek v o) =
      keyBlock P ek v (o / subBlock) := by
  cases o with
  | zero => rfl
  | succ o =>
    rw [workingIv]
    by_cases h : (o + 1) % subBlock = 0
    · rw [if_pos h, show (o + 1) / subBlock = o / subBlock + 1 by unfold subBlock at *; omega, keyBlock]
    · rw [if_neg h, show (o + 1) / subBlock = o / subBlock by unfold subBlock at *; omega]

/-- Where the loop of `xform` stands before the byte at body position p: in the first chunk or in a later one, up to and
including its end (R171). -/
def LoopAt (p limit o : Nat) : Prop :=
  (limit = chunkFirst ∧ o ≤ limit ∧ p = o) ∨ (limit = chunkNext ∧ o ≤ limit ∧ ∃ k, p = chunkFirst + limit * k + o)

/-- At a chunk's end the next byte starts a chunk. -/
theorem chunkOffset_of_loopAt_end {p limit : Nat} (h : LoopAt p limit limit) :
    chunkOffset p = 0 ∧ LoopAt (p + 1) chunkNext 1 := by
  unfold LoopAt chunkFirst chunkNext at *
  unfold chunkOffset
  rcases h with ⟨rfl, -, rfl⟩ | ⟨rfl, -, k, rfl⟩
  · exact ⟨rfl, Or.inr ⟨rfl, by decide, 0, rfl⟩⟩
  · exact ⟨by rw [if_neg (by omega)]; omega, Or.inr ⟨rfl, by decide, k + 1, by omega⟩⟩

/-- Inside a chunk the loop's offset is the chunk offset of the position. -/
theorem chunkOffset_of_loopAt_inside {p limit o : Nat} (h : LoopAt p limit o) (ho : o ≠ limit) :
    chunkOffset p = o ∧ LoopAt (p + 1) limit (o + 1) := by
  unfold LoopAt chunkFirst chunkNext at *
  unfold chunkOffset
  rcases h with ⟨rfl, hle, rfl⟩ | ⟨rfl, hle, k, rfl⟩
  · exact ⟨if_pos (by omega), Or.inl ⟨rfl, by omega, rfl⟩⟩
  · exact ⟨by rw [if_neg (by omega)]; omega, Or.inr ⟨rfl, by omega, k, rfl⟩⟩

/-- R174: from any place the loop XORs each byte with the keystream byte of its position. -/
theorem xformWalk_eq_mapIdx (P : Params) (ek : ExpandedKey) (v : Word) (data : List Byte) (p limit o : Nat)
    (h : LoopAt p limit o) :
    xformWalk P ek v limit o (workingIv P ek v o) data = data.mapIdx fun i x => x ^^^ keystreamByte P ek v (p + i) := by
  induction data generalizing p limit o with
  | nil => rfl
  | cons x xs ih =>
    have here_then_rest {limit' o' : Nat} (hchunk : chunkOffset p = o') (hnext : LoopAt (p + 1) limit' (o' + 1)) :
        (x ^^^ blockByte (keyBlock P ek v (o' / subBlock)) o') ::
            xformWalk P ek v limit' (o' + 1) (keyBlock P ek v (o' / subBlock)) xs =
          (x :: xs).mapIdx fun i x => x ^^^ keystreamByte P ek v (p + i) := by
      subst hchunk
      rw [List.mapIdx_cons]
      refine congrArg₂ List.cons rfl ((ih (p + 1) limit' _ hnext).trans ?_)
      simp only [Nat.add_assoc, Nat.add_comm 1]
    by_cases ho : o = limit
    · subst ho
      obtain ⟨hchunk, hnext⟩ := chunkOffset_of_loopAt_end h
      simpa [xformWalk, keyBlock] using here_then_rest hchunk hnext
    · obtain ⟨hchunk, hnext⟩ := chunkOffset_of_loopAt_inside h ho
      simpa only [xformWalk, ho, decide_false, Bool.false_eq_true, if_false, keyBlock_of_workingIv] using
        here_then_rest hchunk hnext

/-- R174 on a whole body. -/
theorem xform_eq_mapIdx (P : Params) (ek : ExpandedKey) (v : Word) (data : List Byte) :
    xform P ek v data = data.mapIdx fun p x => x ^^^ keystreamByte P ek v p := by
  refine (xformWalk_eq_mapIdx P ek v data 0 chunkFirst 0 (Or.inl ⟨rfl, by decide, rfl⟩)).trans ?_
  simp only [Nat.zero_add]

theorem xform_getElem? (P : Params) (ek : ExpandedKey) (v : Word) (data : List Byte) (p : Nat) (h : p < data.length) :
    (xform P ek v data)[p]? = some (data[p] ^^^ keystreamByte P ek v p) := by
  rw [xform_eq_mapIdx, List.getElem?_mapIdx, List.getElem?_eq_getElem h, Option.map_some]

theorem xform_xform (P : Params) (ek : ExpandedKey) (v : Word) (data : List Byte) :
    xform P ek v (xform P ek v data) = data := by
  rw [xform_eq_mapIdx, xform_eq_mapIdx, List.mapIdx_mapIdx, List.mapIdx_eq_iff]
  intro p
  simp only [Function.comp_def, BitVec.xor_assoc, BitVec.xor_self, BitVec.xor_zero, Option.map_id']

/-- R176: what the transform puts on the data at a position is the keystream byte there. -/
theorem byteAt_xform_xor (P : Params) (ek : ExpandedKey) (v : Word) (data : List Byte) (p : Nat) (h : p < data.length) :
    byteAt (xform P ek v data) p ^^^ byteAt data p = keystreamByte P ek v p := by
  rw [byteAt, byteAt, xform_getElem? P ek v data p h, List.getElem?_eq_getElem h, Option.getD_some, Option.getD_some,
    BitVec.xor_comm, ← BitVec.xor_assoc, BitVec.xor_self, BitVec.zero_xor]

/-- R174: positions at one chunk offset share their keystream byte. -/
theorem keystreamByte_congr (P : Params) (ek : ExpandedKey) (v : Word) {p q : Nat} (h : chunkOffset p = chunkOffset q) :
    keystreamByte P ek v p = keystreamByte P ek v q := by
  simp only [keystreamByte, h]

/-! ## The Shanda passes (R207) -/

theorem rol8_ror8 (x : Byte) (n : Nat) : rol8 (ror8 x n) n = x := by
  ext i hi
  simp only [rol8, ror8, BitVec.getElem_rotateLeft, BitVec.getElem_rotateRight]
  by_cases h : i < n % 8
  · rw [dif_pos h, dif_neg (by omega)]
    congr 1
    omega
  · rw [dif_neg h, dif_pos (by omega)]
    congr 1
    omega

theorem ror8_rol8 (x : Byte) (n : Nat) : ror8 (rol8 x n) n = x := by
  ext i hi
  simp only [rol8, ror8, BitVec.getElem_rotateLeft, BitVec.getElem_rotateRight]
  by_cases h : i < 8 - n % 8
  · rw [dif_pos h, dif_neg (by omega)]
    congr 1
    omega
  · rw [dif_neg h, dif_pos (by omega)]
    congr 1
    omega

/-- The decryption of a byte from its t undoes how the encryption made t (R201 and R205, R202 and R204). -/
theorem ror8_unmixed (x k L : Byte) (n : Nat) : ror8 ((k ^^^ ((rol8 x n + L) ^^^ k)) - L) n = x := by
  rw [BitVec.xor_comm, BitVec.xor_assoc, BitVec.xor_self, BitVec.xor_zero, BitVec.add_sub_cancel, ror8_rol8]

/-- Sub-pass B finds again at each index the t that B⁻¹ had there, and so its input byte (R202, R204). -/
theorem subBDecWalk_subBEncWalk (k L : Byte) (d : List Byte) : subBDecWalk k L (subBEncWalk k L d) = d := by
  induction d generalizing k L with
  | nil => rfl
  | cons x xs ih =>
    have same_t (t : Byte) : rol8 (~~~(~~~(ror8 t L.toNat) + shandaCB - shandaCB)) L.toNat = t := by
      rw [BitVec.add_sub_cancel, BitVec.not_not, rol8_ror8]
    simp only [subBEncWalk, subBDecWalk, same_t, ror8_unmixed, ih]

/-- Sub-pass A finds again at each index the t that A⁻¹ had there, and so its input byte (R201, R205). -/
theorem subADecWalk_subAEncWalk (k L : Byte) (d : List Byte) : subADecWalk k L (subAEncWalk k L d) = d := by
  induction d generalizing k L with
  | nil => rfl
  | cons x xs ih =>
    have same_t (t : Byte) : rol8 (ror8 (t ^^^ shandaCA) 3) 3 ^^^ shandaCA = t := by
      rw [rol8_ror8, BitVec.xor_assoc, BitVec.xor_self, BitVec.xor_zero]
    simp only [subAEncWalk, subADecWalk, same_t, ror8_unmixed, ih]

theorem subBDec_subBEnc (d : List Byte) : subBDec (subBEnc d) = d := by
  simp only [subBDec, subBEnc, remainingLen, subBEncWalk_length, subBDecWalk_subBEncWalk]

theorem subADec_subAEnc (d : List Byte) : subADec (subAEnc d) = d := by
  simp only [subADec, subAEnc, remainingLen, List.length_reverse, subAEncWalk_length, List.reverse_reverse,
    subADecWalk_subAEncWalk]

/-- R207, the way DECRYPT needs it. -/
theorem shandaDec_shandaEnc (d : List Byte) : shandaDec (shandaEnc d) = d := by
  simp only [shandaDec, shandaEnc, shandaReps, repeatPass, subADec_subAEnc, subBDec_subBEnc]

/-! ## The body of a frame (R180, R185, R186) -/

/-- The frame ENCRYPT writes, after its header. -/
def encryptedBody (P : Params) (k : Context) (body : List Byte) : List Byte :=
  xform P k.ek k.vector (if k.shandaEn = true then shandaEnc body else body)

theorem encryptFrame_eq (P : Params) (k : Context) (d : Dir) (body : List Byte) :
    encryptFrame P k d body =
      wireHeader k.version k.vector (BitVec.ofNat 16 body.length) d ++ encryptedBody P k body := by
  rw [encryptFrame, headerBytes_header, encryptedBody]

@[simp] theorem encryptedBody_length (P : Params) (k : Context) (body : List Byte) :
    (encryptedBody P k body).length = body.length := by
  rw [encryptedBody, xform_length]
  split
  · exact shandaEnc_length body
  · rfl

/-- R194 on byte sequences: a context with the same key, vector and Shanda setting recovers the body, the transform
undone first. -/
theorem decryptBody_encryptedBody (P : Params) (k k' : Context) (body : List Byte) (hek : k.ek = k'.ek)
    (hvec : k.vector = k'.vector) (hshanda : k.shandaEn = k'.shandaEn) :
    decryptBody P k' (encryptedBody P k body) = body := by
  simp only [decryptBody, encryptedBody, ← hek, ← hvec, ← hshanda, xform_xform]
  split
  · exact shandaDec_shandaEnc body
  · rfl

end Sys2Proof.Machine
end

section
/-! SUPPORT. How a command passes or fails its checks, reads initialised bytes, and stores. -/

namespace Sys2Proof.Machine

/-! ## The commands by their names -/

theorem exec_pktLen (s : State) : exec .pktLen s = execPktLen s := rfl

theorem exec_xform (c : CtxId) (s : State) : exec (.xform c) s = execXform c s := rfl

theorem exec_encrypt (c : CtxId) (d : Dir) (s : State) : exec (.encrypt c d) s = execEncrypt c d s := rfl

theorem exec_decrypt (c : CtxId) (s : State) : exec (.decrypt c) s = execDecrypt c s := rfl

theorem exec_hsStrip (s : State) : exec .hsStrip s = execHsStrip s := rfl

/-! ## Checks and reads -/

theorem checked_ends {check code : Code} {s : State} {rest : Unit → Host.Outcome State Fault Refusal}
    (h : check = code) (hcode : code ≠ .ok := by decide) : checked check s rest = .next (s.failed code) := by
  subst h
  exact checked_failed _ s rest hcode

/-- A command past its checks goes on with the bytes it reads. -/
theorem checked_withBytes {check : Code} {s : State} {off n : Nat} {bs : List Byte}
    {rest : List Byte → Host.Outcome State Fault Refusal} (hc : check = .ok) (hl : bs.length = n) (h : s.holds off bs) :
    checked check s (fun _ => withBytes s off n rest) = rest bs := by
  rw [hc, checked_ok]
  exact withBytes_some s off n rest bs ((Memory.readBytes_eq_some ..).mpr ⟨hl, h⟩)

theorem readyXf_iff (s : State) (c : CtxId) : readyXf s c = true ↔ s.ready c :=
  Bool.and_eq_true_iff

/-! ## The first failing check (R222) -/

theorem pktLenCheck_range {P : Params} {s : State} (h : P.bufBytes < s.srcOff + hdrBytes) :
    pktLenCheck P s = .range := by
  simp [pktLenCheck, firstFailure_cons, inBuf, h]

theorem xformCheck_notReady {P : Params} {c : CtxId} {s : State} (h : ¬ s.ready c) : xformCheck P c s = .notReady := by
  simp [xformCheck, firstFailure_cons, readyXf_iff, h]

theorem xformCheck_range {P : Params} {c : CtxId} {s : State} (hr : s.ready c)
    (h : P.bufBytes < s.srcOff + s.lenNat ∨ P.bufBytes < s.dstOff + s.lenNat) : xformCheck P c s = .range := by
  rcases h with h | h <;> simp [xformCheck, firstFailure_cons, readyXf_iff, inBuf, hr, h]

theorem encryptCheck_notReady {P : Params} {c : CtxId} {s : State} (h : ¬ s.ready c) :
    encryptCheck P c s = .notReady := by
  simp [encryptCheck, firstFailure_cons, readyXf_iff, h]

theorem encryptCheck_lenRange {P : Params} {c : CtxId} {s : State} (hr : s.ready c) (h : maxBody < s.lenNat) :
    encryptCheck P c s = .lenRange := by
  simp [encryptCheck, firstFailure_cons, readyXf_iff, hr, h]

theorem encryptCheck_range {P : Params} {c : CtxId} {s : State} (hr : s.ready c) (hn : s.lenNat ≤ maxBody)
    (h : P.bufBytes < s.srcOff + s.lenNat ∨ P.bufBytes < s.dstOff + (hdrBytes + s.lenNat)) :
    encryptCheck P c s = .range := by
  rcases h with h | h <;> simp [encryptCheck, firstFailure_cons, readyXf_iff, inBuf, hr, hn, h]

theorem decryptCheck_notReady {P : Params} {c : CtxId} {s : State} (h : ¬ s.ready c) :
    decryptCheck P c s = .notReady := by
  simp [decryptCheck, firstFailure_cons, readyXf_iff, h]

theorem decryptCheck_short {P : Params} {c : CtxId} {s : State} (hr : s.ready c) (h : s.lenNat < hdrBytes) :
    decryptCheck P c s = .short := by
  simp [decryptCheck, firstFailure_cons, readyXf_iff, hr, h]

theorem decryptCheck_range {P : Params} {c : CtxId} {s : State} (hr : s.ready c) (hn : hdrBytes ≤ s.lenNat)
    (h : P.bufBytes < s.srcOff + s.lenNat) : decryptCheck P c s = .range := by
  simp [decryptCheck, firstFailure_cons, readyXf_iff, inBuf, hr, hn, h]

theorem hsStripCheck_short {P : Params} {s : State} (h : s.lenNat < prefixBytes) : hsStripCheck P s = .short := by
  simp [hsStripCheck, firstFailure_cons, h]

theorem hsStripCheck_range {P : Params} {s : State} (hn : prefixBytes ≤ s.lenNat)
    (h : P.bufBytes < s.srcOff + s.lenNat) : hsStripCheck P s = .range := by
  simp [hsStripCheck, firstFailure_cons, inBuf, hn, h]

theorem bodyCheck_short {P : Params} {hdr m : Nat} {s : State} (h : s.lenNat < hdr + m) :
    bodyCheck P hdr m s = .short := by
  simp [bodyCheck, firstFailure_cons, h]

theorem bodyCheck_range {P : Params} {hdr m : Nat} {s : State} (hn : hdr + m ≤ s.lenNat)
    (h : P.bufBytes < s.dstOff + m) : bodyCheck P hdr m s = .range := by
  simp [bodyCheck, firstFailure_cons, inBuf, hn, h]

/-! ## What stands in `BUF` -/

theorem wrote_of_writeBytes {s t : State} {off : Nat} {bs : List Byte} (h : t.mem = s.mem.writeBytes off bs) :
    s.wrote t off bs := by
  refine ⟨fun j hj => ?_, fun a ha => ?_⟩
  · rw [h, Memory.read_writeBytes_inside]
  · rw [h, Memory.read_writeBytes_outside]
    simp only [inRange] at ha
    omega

theorem committed_mem (s : State) (c : CtxId) (k : Context) (bs : List Byte) (r : Word) :
    (committed s c k bs r).mem = s.mem.writeBytes s.dst.toNat bs := by
  simp [committed, State.store, State.dstOff]

theorem wrote_committed (s : State) (c : CtxId) (k : Context) (bs : List Byte) (r : Word) :
    s.wrote (committed s c k bs r) s.dst.toNat bs :=
  wrote_of_writeBytes (committed_mem s c k bs r)

theorem holds_of_append {s : State} {off : Nat} {xs ys : List Byte} (h : s.holds off (xs ++ ys)) :
    s.holds off xs ∧ s.holds (off + xs.length) ys := by
  refine ⟨fun j hj => ?_, fun j hj => ?_⟩
  · rw [h j (by rw [List.length_append]; omega), List.getElem_append_left hj]
  · rw [Nat.add_assoc, h (xs.length + j) (by rw [List.length_append]; omega),
      List.getElem_append_right (Nat.le_add_right ..)]
    simp only [Nat.add_sub_cancel_left]

/-! ## New operands -/

/-- The host gives a command new operands. -/
def State.withOperands (s : State) (src dst len : Word) : State :=
  { s with src := src, dst := dst, len := len }

@[simp] theorem State.withOperands_ctx (s : State) (src dst len : Word) (c : CtxId) :
    (s.withOperands src dst len).ctx c = s.ctx c := by
  cases c <;> rfl

/-! ## The completion of ENCRYPT (R180, R181) -/

theorem frameLength_eq (len : Word) : BitVec.ofNat 32 (4 + len.toNat) = len + 4 := by
  rw [Nat.add_comm, BitVec.ofNat_add, BitVec.ofNat_toNat, BitVec.setWidth_eq]
  rfl

theorem announceStep_eq (s : State) (c : CtxId) :
    s.announceStep c = { s with
      announce := if ((s.ctx c).announceEn && mustAnnounce (s.ctx c).vector) = true then loHalf (s.ctx c).vector
        else s.announce
      annValid := ((s.ctx c).announceEn && mustAnnounce (s.ctx c).vector) || s.annValid } := by
  rw [State.announceStep]
  cases (s.ctx c).announceEn && mustAnnounce (s.ctx c).vector <;> rfl

/-- The frame of an OK completion with its announce step. -/
theorem announceStep_committed (s : State) (c : CtxId) (k : Context) (bs : List Byte) (r : Word) :
    let t := (committed s c k bs r).announceStep c
    t = { s with
      code := .ok, result := r, busy := false, done := true, annValid := k.announceEn && mustAnnounce k.vector
      announce := if (k.announceEn && mustAnnounce k.vector) = true then loHalf k.vector else s.announce
      ctx0 := t.ctx0, ctx1 := t.ctx1, mem := t.mem } := by
  simp only [announceStep_eq, committed_ctx_same]
  cases c <;> simp [committed, State.finish, State.store, State.setCtx]

end Sys2Proof.Machine
end

section
/-! The statements of 42_cipher_wrapper.md. -/

namespace Sys2Proof.Machine

/-! ## The header (R165, R167) -/

/-- Settles O42: the two header words differ by the body length. -/
theorem packetLengthInvertsHeader : Obligations.PacketLengthInvertsHeader :=
  packetLength_header

/-- Settles O44: the four bytes read are two little-endian words. -/
theorem pktLenCompletes : Obligations.PktLenCompletes := by
  refine ⟨encodedBy_fields .pktLen, fun s => ?_⟩
  rw [exec_pktLen]
  exact ⟨fun h => checked_ends (pktLenCheck_range h),
    fun h b0 b1 b2 b3 hb => checked_withBytes (bs := [b0, b1, b2, b3]) ((pktLenCheck_ok _ s).mpr h) rfl hb⟩

/-! ## The stream transform (R174 to R177) -/

/-- Settles O45, from the loop's closed form; the tiling byte by byte. -/
theorem xformClosedForm : Obligations.XformClosedForm := by
  refine ⟨fun v j h => ?_, fun P ek v data => ⟨xform_length P ek v data, xform_getElem? P ek v data⟩⟩
  interval_cases j <;> rfl

/-- Settles O46: the same keystream byte comes twice on every position. -/
theorem xformSelfInverse : Obligations.XformSelfInverse :=
  xform_xform

/-- Settles O47: the difference is the keystream byte, and the two positions have one chunk offset. -/
theorem keystreamByPositionAlone : Obligations.KeystreamByPositionAlone := by
  refine fun P ek v => ⟨fun d d' p h h' => ?_, fun d p q hp hq hpq => ?_⟩
  · rw [byteAt_xform_xor P ek v d p h, byteAt_xform_xor P ek v d' p h']
  · rw [byteAt_xform_xor P ek v d p hp, byteAt_xform_xor P ek v d q hq]
    refine keystreamByte_congr P ek v ?_
    simp only [chunkOffset]
    rcases hpq with ⟨hlt, rfl⟩ | ⟨hge, rfl⟩
    · rw [if_pos hlt, if_neg (by omega)]
      omega
    · rw [if_neg (by omega), if_neg (by omega)]
      omega

/-- Settles O48: past its checks XFORM commits the shuffled vector and the transform of the bytes it read. -/
theorem xformCompletes : Obligations.XformCompletes := by
  refine fun c => ⟨encodedBy_fields (.xform c), fun s => ?_⟩
  simp only [exec_xform]
  refine ⟨fun hr => checked_ends (xformCheck_notReady hr), fun hr h => checked_ends (xformCheck_range hr h),
    fun hr hsrc hdst body hl hb => ?_⟩
  have hpass : xformCheck Config.params c s = .ok := (xformCheck_ok _ c s).mpr ⟨(readyXf_iff s c).mpr hr, hsrc, hdst⟩
  exact ⟨committed s c _ _ s.len, checked_withBytes hpass hl hb, okFrame_committed .., otherCtxKept_committed s c _ _ _,
    committed_ctx_same .., wrote_committed ..⟩

/-! ## ENCRYPT, DECRYPT and HS_STRIP (R180 to R194) -/

/-- Settles O49: past its checks ENCRYPT commits the shuffled vector and the frame under the vector before, and then
takes the announce step. -/
theorem encryptCompletes : Obligations.EncryptCompletes := by
  refine fun c d => ⟨encodedBy_fields (.encrypt c d), fun s => ?_⟩
  simp only [exec_encrypt, Nat.add_assoc s.dst.toNat]
  refine ⟨fun hr => checked_ends (encryptCheck_notReady hr), fun hr hn => checked_ends (encryptCheck_lenRange hr hn),
    fun hr hn h => checked_ends (encryptCheck_range hr hn h), fun hr hn hsrc hdst body hl hb => ?_⟩
  have hpass : encryptCheck Config.params c s = .ok :=
    (encryptCheck_ok _ c s).mpr ⟨(readyXf_iff s c).mpr hr, hn, hsrc, hdst⟩
  rw [frameLength_eq]
  refine ⟨(committed s c _ _ _).announceStep c, checked_withBytes hpass hl hb, announceStep_committed ..,
    fun c' hc' => ?_, ?_, wrote_of_writeBytes ?_⟩
  · rw [State.announceStep_ctx]
    exact otherCtxKept_committed s c _ _ _ c' hc'
  · rw [State.announceStep_ctx, committed_ctx_same]
  · rw [State.announceStep_mem, committed_mem, encryptFrame_eq, hl]
    rfl

/-- Settles O50: the checks before the header is read, those on the body length it gives, and the commit. -/
theorem decryptCompletes : Obligations.DecryptCompletes := by
  refine fun c => ⟨encodedBy_fields (.decrypt c), fun s => ?_⟩
  simp only [exec_decrypt]
  refine ⟨fun hr => checked_ends (decryptCheck_notReady hr), fun hr hn => checked_ends (decryptCheck_short hr hn),
    fun hr hn h => checked_ends (decryptCheck_range hr hn h), fun hr hn hsrc b0 b1 b2 b3 hhdr => ?_⟩
  have hpass : decryptCheck Config.params c s = .ok := (decryptCheck_ok _ c s).mpr ⟨(readyXf_iff s c).mpr hr, hn, hsrc⟩
  have enter : execDecrypt c s = _ := checked_withBytes (bs := [b0, b1, b2, b3]) hpass rfl hhdr
  rw [enter]
  refine ⟨fun h => checked_ends (bodyCheck_short h), fun hm h => checked_ends (bodyCheck_range hm h),
    fun hm hdst body hl hb => ?_⟩
  rw [BitVec.ofNat_toNat]
  exact ⟨committed s c _ _ _, checked_withBytes ((bodyCheck_ok ..).mpr ⟨hm, hdst⟩) hl hb, okFrame_committed ..,
    otherCtxKept_committed s c _ _ _, committed_ctx_same .., wrote_committed ..⟩

/-- Settles O51: the checks before the length field is read, those on the length it gives, and the copy. -/
theorem hsStripCompletes : Obligations.HsStripCompletes := by
  refine ⟨encodedBy_fields .hsStrip, fun s => ?_⟩
  simp only [exec_hsStrip]
  refine ⟨fun hn => checked_ends (hsStripCheck_short hn), fun hn h => checked_ends (hsStripCheck_range hn h),
    fun hn hsrc b0 b1 hpre => ?_⟩
  have enter : execHsStrip s = _ := checked_withBytes (bs := [b0, b1]) ((hsStripCheck_ok _ s).mpr ⟨hn, hsrc⟩) rfl hpre
  rw [enter]
  refine ⟨fun h => checked_ends (bodyCheck_short h), fun hm h => checked_ends (bodyCheck_range hm h),
    fun hm hdst body hl hb => ?_⟩
  rw [BitVec.ofNat_toNat]
  exact ⟨(s.store s.dstOff body).finish .ok _, checked_withBytes ((bodyCheck_ok ..).mpr ⟨hm, hdst⟩) hl hb, rfl, rfl,
    rfl, wrote_of_writeBytes rfl⟩

/-- DECRYPT of any frame with a header ENCRYPT writes, whatever its version and vector: the header gives the length of
the data after it (R165, R187). -/
theorem exec_decrypt_frame (c : CtxId) (s : State) (ver : Half) (v : Word) (d : Dir) (data : List Byte)
    (hr : s.ready c) (hmax : data.length ≤ 0xFFFF) (hlen : s.len.toNat = 4 + data.length)
    (hsrc : s.src.toNat + (4 + data.length) ≤ Config.params.bufBytes)
    (hdst : s.dst.toNat + data.length ≤ Config.params.bufBytes)
    (hframe : s.holds s.src.toNat (wireHeader ver v (BitVec.ofNat 16 data.length) d ++ data)) :
    ∃ u, exec (.decrypt c) s = .next u ∧ s.okFrame u (BitVec.ofNat 32 data.length) ∧ s.otherCtxKept u c ∧
      u.ctx c = { s.ctx c with vector := shuffle Config.params (s.ctx c).vector } ∧
      s.wrote u s.dst.toNat (decryptBody Config.params (s.ctx c) data) := by
  obtain ⟨b0, b1, b2, b3, hbytes⟩ : ∃ b0 b1 b2 b3,
      wireHeader ver v (BitVec.ofNat 16 data.length) d = [b0, b1, b2, b3] := ⟨_, _, _, _, rfl⟩
  have hword : ((b1 ++ b0) ^^^ (b3 ++ b2) : Half) = BitVec.ofNat 16 data.length := by
    rw [← packetLength_header ver v (BitVec.ofNat 16 data.length) d, headerBytes_header, hbytes]
    rfl
  have hm : ((b1 ++ b0) ^^^ (b3 ++ b2) : Half).toNat = data.length := by
    rw [hword, BitVec.toNat_ofNat, Nat.mod_eq_of_lt (by omega)]
  rw [hbytes] at hframe
  obtain ⟨hheader, hdata⟩ := holds_of_append hframe
  obtain ⟨-, -, -, hchecked⟩ := (decryptCompletes c).2 s
  obtain ⟨-, -, hok⟩ := hchecked hr (by omega) (by omega) b0 b1 b2 b3 hheader
  rw [hm] at hok
  exact hok (by omega) hdst data rfl hdata

/-- Settles O52: DECRYPT reads back from the frame the body length and the transformed body, and undoes the transform
and the Shanda pass under the same key and vector. -/
theorem encryptDecryptRoundTrip : Obligations.EncryptDecryptRoundTrip := by
  intro a b d s body x hab hra hrb hek hvec hshanda hmax hlen hbody hsrc hdst hx
  have hn : s.len.toNat = body.length := by
    rw [hlen, BitVec.toNat_ofNat, Nat.mod_eq_of_lt (by omega)]
  obtain ⟨-, -, -, hok⟩ := (encryptCompletes a d).2 s
  obtain ⟨t, hexec, ht, hother, hta, hframe, -⟩ := hok hra (by omega) (by omega) (by omega) body hn.symm hbody
  have htb : t.ctx b = s.ctx b := hother b hab.symm
  have hresult : t.result.toNat = 4 + body.length := by
    rw [show t.result = BitVec.ofNat 32 (4 + s.len.toNat) from congrArg State.result ht, hn, BitVec.toNat_ofNat,
      Nat.mod_eq_of_lt (by omega)]
  have hready : (t.withOperands s.dst x t.result).ready b := by
    rwa [State.ready, State.withOperands_ctx, htb]
  have hlength := encryptedBody_length Config.params (s.ctx a) body
  obtain ⟨u, hexec', hu, hother', hub, hholds, -⟩ := exec_decrypt_frame b (t.withOperands s.dst x t.result)
    (s.ctx a).version (s.ctx a).vector d (encryptedBody Config.params (s.ctx a) body) hready (hlength.trans_le hmax)
    (by rwa [hlength]) (by rwa [hlength, ← Nat.add_assoc]) (by rwa [hlength]) (by rw [hlength, ← hn]; exact hframe)
  rw [State.withOperands_ctx, htb, decryptBody_encryptedBody _ _ _ _ hek hvec hshanda] at hholds
  refine ⟨t, u, hexec, congrArg State.code ht, hexec', congrArg State.code hu, hholds, ?_, ?_, ?_⟩
  · rw [← hlength]
    exact congrArg State.result hu
  · rw [hother' a hab, State.withOperands_ctx, hta]
  · rw [hub, State.withOperands_ctx, htb, hvec]

end Sys2Proof.Machine
end

section
/-! SUPPORT. The Shanda sub-passes as right inverses, and every index of a sub-pass's walk (R200 to R208). -/

namespace Sys2Proof.Machine

/-! ## The inverse sub-passes are right inverses (R207) -/

/-- The encryption of a byte finds the t its decryption had (R201 and R205, R202 and R204). -/
theorem remixed_ror8 (t k L : Byte) (n : Nat) : (rol8 (ror8 ((k ^^^ t) - L) n) n + L) ^^^ k = t := by
  rw [rol8_ror8, BitVec.sub_add_cancel, BitVec.xor_comm, ← BitVec.xor_assoc, BitVec.xor_self, BitVec.zero_xor]

/-- B⁻¹ finds again at each index the t that sub-pass B had there, and so its input byte (R202, R204). -/
theorem subBEncWalk_subBDecWalk (k L : Byte) (d : List Byte) : subBEncWalk k L (subBDecWalk k L d) = d := by
  induction d generalizing k L with
  | nil => rfl
  | cons x xs ih =>
    have same_byte : ~~~(ror8 (rol8 (~~~(x - shandaCB)) L.toNat) L.toNat) + shandaCB = x := by
      rw [ror8_rol8, BitVec.not_not, BitVec.sub_add_cancel]
    simp only [subBDecWalk, subBEncWalk, remixed_ror8, same_byte, ih]

/-- A⁻¹ finds again at each index the t that sub-pass A had there, and so its input byte (R201, R205). -/
theorem subAEncWalk_subADecWalk (k L : Byte) (d : List Byte) : subAEncWalk k L (subADecWalk k L d) = d := by
  induction d generalizing k L with
  | nil => rfl
  | cons x xs ih =>
    have same_byte : ror8 (rol8 x 3 ^^^ shandaCA ^^^ shandaCA) 3 = x := by
      rw [BitVec.xor_assoc, BitVec.xor_self, BitVec.xor_zero, ror8_rol8]
    simp only [subADecWalk, subAEncWalk, remixed_ror8, same_byte, ih]

theorem subBEnc_subBDec (d : List Byte) : subBEnc (subBDec d) = d := by
  simp only [subBDec, subBEnc, remainingLen, subBDecWalk_length, subBEncWalk_subBDecWalk]

theorem subAEnc_subADec (d : List Byte) : subAEnc (subADec d) = d := by
  simp only [subADec, subAEnc, remainingLen, List.length_reverse, subADecWalk_length, List.reverse_reverse,
    subAEncWalk_subADecWalk]

theorem shandaEnc_shandaDec (d : List Byte) : shandaEnc (shandaDec d) = d := by
  simp only [shandaDec, shandaEnc, shandaReps, repeatPass, subBEnc_subBDec, subAEnc_subADec]

/-! ## Every index of a walk (R200, R208) -/

theorem remainingLen_cons_sub_one (x : Byte) (xs : List Byte) : remainingLen (x :: xs) - 1 = remainingLen xs := by
  rw [remainingLen, List.length_cons, BitVec.ofNat_add]
  exact BitVec.add_sub_cancel ..

theorem remainingAt_zero (d : List Byte) : remainingAt d.length 0 = remainingLen d :=
  BitVec.eq_of_toNat_eq (by simp [remainingAt, remainingLen])

theorem remainingAt_succ (n j : Nat) : remainingAt (n + 1) (j + 1) = remainingAt n j := by
  rw [remainingAt, Nat.add_sub_add_right, remainingAt]

/-- The sequence `f` with `b` put before it: the `xor_key` each visited index sees, from the first one and the t of each
index. -/
def startingWith (b : Byte) (f : Nat → Byte) : Nat → Byte
  | 0 => b
  | j + 1 => f j

theorem startingWith_zero (t : Nat → Byte) (j : Nat) : startingWith 0 t j = xorKeyAt t j := by
  cases j <;> rfl

/-- The shape of the four sub-passes: at each index t is made from `xor_key`, `remaining_len` and the input byte, and
the output byte from `xor_key`, `remaining_len` and t; t and `remaining_len` - 1 go on to the next index (R200). -/
def WalksBy (w : Byte → Byte → List Byte → List Byte) (tOf out : Byte → Byte → Byte → Byte) : Prop :=
  ∀ k L x xs, w k L (x :: xs) = out k L (tOf k L x) :: w (tOf k L x) (L - 1) xs

theorem subADecWalk_walksBy :
    WalksBy subADecWalk (fun _ _ x => x.rotateLeft 3 ^^^ 0x13) (fun k L t => ((k ^^^ t) - L).rotateRight 4) :=
  fun _ _ _ _ => rfl

theorem subBDecWalk_walksBy :
    WalksBy subBDecWalk (fun _ L x => (~~~(x - 0x48)).rotateLeft (L.toNat % 8))
      (fun k L t => ((k ^^^ t) - L).rotateRight 3) := by
  intro k L x xs
  simp only [BitVec.rotateLeft_mod_eq_rotateLeft]
  rfl

theorem subBEncWalk_walksBy :
    WalksBy subBEncWalk (fun k L x => (x.rotateLeft 3 + L) ^^^ k)
      (fun _ L t => ~~~(t.rotateRight (L.toNat % 8)) + 0x48) := by
  intro k L x xs
  simp only [BitVec.rotateRight_mod_eq_rotateRight]
  rfl

theorem subAEncWalk_walksBy :
    WalksBy subAEncWalk (fun k L x => (x.rotateLeft 4 + L) ^^^ k) (fun _ _ t => (t ^^^ 0x13).rotateRight 3) :=
  fun _ _ _ _ => rfl

/-- A walk index by index, from any first `xor_key`: the rest of a walk is a walk over the rest, which starts with the t
before it and the length of the rest. -/
theorem WalksBy.indexwise {w : Byte → Byte → List Byte → List Byte} {tOf out : Byte → Byte → Byte → Byte}
    (hw : WalksBy w tOf out) (k : Byte) (d : List Byte) :
    ∃ t : Nat → Byte, ∀ (j : Nat) (h : j < d.length),
      t j = tOf (startingWith k t j) (remainingAt d.length j) d[j] ∧
      (w k (remainingLen d) d)[j]? = some (out (startingWith k t j) (remainingAt d.length j) (t j)) := by
  induction d generalizing k with
  | nil => exact ⟨fun _ => 0, nofun⟩
  | cons x xs ih =>
    obtain ⟨t, ht⟩ := ih (tOf k (remainingLen (x :: xs)) x)
    refine ⟨startingWith (tOf k (remainingLen (x :: xs)) x) t, fun j h => ?_⟩
    rw [hw, remainingLen_cons_sub_one]
    cases j with
    | zero =>
      rw [remainingAt_zero]
      exact ⟨rfl, rfl⟩
    | succ j =>
      rw [List.length_cons, remainingAt_succ]
      exact ht j (Nat.lt_of_succ_lt_succ h)

/-- A sub-pass that visits from index 0 up. -/
theorem WalksBy.lowToHigh {w : Byte → Byte → List Byte → List Byte} {tOf out : Byte → Byte → Byte → Byte}
    (hw : WalksBy w tOf out) (d : List Byte) :
    ∃ t : Nat → Byte, ∀ (j : Nat) (h : j < d.length),
      t j = tOf (xorKeyAt t j) (remainingAt d.length j) d[j] ∧
      (w 0 (remainingLen d) d)[j]? = some (out (xorKeyAt t j) (remainingAt d.length j) (t j)) := by
  simpa only [startingWith_zero] using hw.indexwise 0 d

/-- A sub-pass that visits from the last index down: the walk over the reversed bytes. -/
theorem WalksBy.highToLow {w : Byte → Byte → List Byte → List Byte} {tOf out : Byte → Byte → Byte → Byte}
    (hw : WalksBy w tOf out) (hlen : ∀ k L d, (w k L d).length = d.length) (d : List Byte) :
    ∃ t : Nat → Byte, ∀ (j : Nat) (h : j < d.length),
      t j = tOf (xorKeyAt t j) (remainingAt d.length j) d[d.length - 1 - j] ∧
      (w 0 (remainingLen d) d.reverse).reverse[d.length - 1 - j]? =
        some (out (xorKeyAt t j) (remainingAt d.length j) (t j)) := by
  obtain ⟨t, ht⟩ := hw.lowToHigh d.reverse
  refine ⟨t, fun j h => ?_⟩
  obtain ⟨hmade, hout⟩ := ht j (by rwa [List.length_reverse])
  simp only [remainingLen, List.length_reverse, List.getElem_reverse] at hmade hout
  rw [List.getElem?_reverse (by rw [hlen, List.length_reverse]; omega), hlen, List.length_reverse,
    show d.length - 1 - (d.length - 1 - j) = j by omega]
  exact ⟨hmade, hout⟩

/-! ## The two commands (R209, R210) -/

/-- SHANDA_ENC and SHANDA_DEC up to the pass they apply. -/
def execShandaPass (pass : List Byte → List Byte) (s : State) : Host.Outcome State Fault Refusal :=
  checked (shandaCheck Config.params s) s fun _ =>
    withBytes s s.srcOff s.lenNat fun d => endOk s.len (s.store s.dstOff (pass d))

theorem exec_shandaEnc (s : State) : exec .shandaEnc s = execShandaPass shandaEnc s := rfl

theorem exec_shandaDec (s : State) : exec .shandaDec s = execShandaPass shandaDec s := rfl

theorem shandaCheck_range {P : Params} {s : State}
    (h : P.bufBytes < s.srcOff + s.lenNat ∨ P.bufBytes < s.dstOff + s.lenNat) : shandaCheck P s = .range := by
  rcases h with h | h <;> simp [shandaCheck, firstFailure_cons, inBuf, h]

theorem execShandaPass_range (pass : List Byte → List Byte) (s : State)
    (h : Config.params.bufBytes < s.src.toNat + s.len.toNat ∨ Config.params.bufBytes < s.dst.toNat + s.len.toNat) :
    execShandaPass pass s = .next (s.failed .range) :=
  checked_ends (shandaCheck_range h)

/-- Past its checks the command stores the pass over the bytes it read, and ends. -/
theorem execShandaPass_ok (pass : List Byte → List Byte) (s : State) (body : List Byte)
    (hsrc : s.src.toNat + s.len.toNat ≤ Config.params.bufBytes)
    (hdst : s.dst.toNat + s.len.toNat ≤ Config.params.bufBytes)
    (hlen : body.length = s.len.toNat) (hbody : s.holds s.src.toNat body) :
    ∃ t, execShandaPass pass s = .next t ∧ s.okFrame t s.len ∧ t.ctx0 = s.ctx0 ∧ t.ctx1 = s.ctx1 ∧
      s.wrote t s.dst.toNat (pass body) :=
  ⟨(s.store s.dstOff (pass body)).finish .ok s.len,
    checked_withBytes ((shandaCheck_ok _ s).mpr ⟨hsrc, hdst⟩) hlen hbody, rfl, rfl, rfl, wrote_of_writeBytes rfl⟩

/-- R96 step 2 on the words of the two commands. -/
theorem decodeWord_lacksShanda (P : Params) (w : Word) (hlacks : P.hasShanda = false)
    (hop : w.extractLsb' 0 8 = 0x0A ∨ w.extractLsb' 0 8 = 0x0B) : decodeWord P w = .error .illegalOp := by
  have hnat : (w.extractLsb' 0 8).toNat = 0x0A ∨ (w.extractLsb' 0 8).toNat = 0x0B :=
    hop.imp (congrArg BitVec.toNat) (congrArg BitVec.toNat)
  obtain ⟨i, hi, -, -, hdecode⟩ := decodeWord_assignedOpcode P w (by omega)
  rw [hdecode, if_pos ((Instr.wellFormed_eq_false_iff P i).mpr ⟨by rwa [hi], hlacks⟩)]

end Sys2Proof.Machine
end

section
/-! The statements of 43_shanda.md. -/

namespace Sys2Proof.Machine

/-- Settles O53: each sub-pass and its inverse undo each other, both ways. -/
theorem shandaInverse : Obligations.ShandaInverse :=
  fun d => ⟨shandaDec_shandaEnc d, shandaEnc_shandaDec d, shandaEnc_length d, shandaDec_length d⟩

/-- Settles O55: the two commands are one command but for the pass they apply. -/
theorem shandaCommandsComplete : Obligations.ShandaCommandsComplete := by
  refine ⟨encodedBy_fields .shandaEnc, encodedBy_fields .shandaDec, decodeWord_lacksShanda, fun s => ?_⟩
  simp only [exec_shandaEnc, exec_shandaDec]
  exact ⟨fun h => ⟨execShandaPass_range _ s h, execShandaPass_range _ s h⟩, fun hsrc hdst body hlen hbody =>
    ⟨execShandaPass_ok _ s body hsrc hdst hlen hbody, execShandaPass_ok _ s body hsrc hdst hlen hbody⟩⟩

/-- Settles O59: each sub-pass is a walk, up over the bytes or down over them, and the passes are their repetitions. -/
theorem shandaSubPasses : Obligations.ShandaSubPasses := by
  intro d
  refine ⟨subADecWalk_walksBy.highToLow subADecWalk_length d, subBDecWalk_walksBy.lowToHigh d,
    subBEncWalk_walksBy.lowToHigh d, subAEncWalk_walksBy.highToLow subAEncWalk_length d, ⟨?_, ?_, ?_, ?_⟩,
    rfl, rfl⟩
  · rw [subADec, List.length_reverse, subADecWalk_length, List.length_reverse]
  · exact subBDecWalk_length ..
  · exact subBEncWalk_length ..
  · rw [subAEnc, List.length_reverse, subAEncWalk_length, List.length_reverse]

end Sys2Proof.Machine
end

section
/-! The statements of 30_encoding.md on the decoder, and masking a command word field by field. -/

namespace Sys2Proof

/-- The fields of a word make it up again (R90). -/
theorem cmdWord_cmdFields (w : Word) : cmdWord (cmdFields w) = w := by
  refine BitVec.eq_of_getLsbD_eq fun j hj => ?_
  rw [cmdWord_getLsbD]
  simp only [cmdFields, BitVec.getLsbD_extractLsb']
  split_ifs with h8 hctx hdir
  · simp [h8]
  · rw [hctx]
  · rw [hdir]
  · simp [show j - 10 < 22 by omega, show 10 + (j - 10) = j by omega]

/-- Masking a word masks each field. -/
theorem cmdWord_and (f g : Cmd32) :
    cmdWord f &&& cmdWord g = cmdWord ⟨f.op &&& g.op, f.ctx && g.ctx, f.dir && g.dir, f.reserved &&& g.reserved⟩ := by
  refine BitVec.eq_of_getLsbD_eq fun j _ => ?_
  simp only [BitVec.getLsbD_and, cmdWord_getLsbD]
  split_ifs <;> rfl

theorem cmdWord_injective : Function.Injective cmdWord :=
  Function.LeftInverse.injective cmdFields_cmdWord

/-- A bit a command reads is that of its encoding, and a bit it ignores is masked out of both. -/
theorem masked_bit_iff (w : Bool) (bit : Option Bool) :
    (w && bit.isSome) = bit.getD false ↔ ∀ b, bit = some b → w = b := by
  cases bit <;> simp

/-- The mask of a command keeps a word's `OP`, reserved bits, and the `CTX` and `DIR` bits the command reads. -/
theorem masked_eq_encode_iff (w : Word) (i : Instr) :
    w &&& i.encodingMask = encode i ↔
      w.extractLsb' 0 8 = i.opcode ∧ (∀ b, i.ctxBit = some b → w.getLsbD 8 = b) ∧
        (∀ b, i.dirBit = some b → w.getLsbD 9 = b) ∧ w.extractLsb' 10 22 = 0 := by
  have op_kept : (cmdFields w).op &&& 0xFF = (cmdFields w).op := BitVec.and_allOnes
  have hw : w &&& i.encodingMask = cmdWord (cmdFields w) &&& i.encodingMask := by rw [cmdWord_cmdFields]
  rw [hw, Instr.encodingMask, encode, cmdWord_and, cmdWord_injective.eq_iff, Cmd32.mk.injEq, op_kept,
    BitVec.and_allOnes, masked_bit_iff, masked_bit_iff]
  rfl

end Sys2Proof

namespace Sys2Proof.Machine

/-- Settles O3: the encoder's fields are read back, and the map gives the command for them. -/
theorem decodeEncodeRoundTrip : Obligations.DecodeEncodeRoundTrip :=
  decodeWord_encode

/-- Settles O4: both sides say the word's fields are those of the command, but for the bits it ignores. -/
theorem decodeExactly : Obligations.DecodeExactly := by
  intro P w i
  rw [decodeWord_eq_ok_iff, opcodeMap_eq_some_iff, ctxOfBit_bit, dirOfBit_bit, masked_eq_encode_iff]
  tauto

/-- Settles O2, by the steps of R96 for reserved, absent and assigned opcodes. -/
theorem decodingSteps : Obligations.DecodingSteps := by
  refine fun P w => ⟨decodeWord_reservedOpcode P w, fun hop hlacks => ?_, fun hop hpresent hbits => ?_,
    fun hop hpresent hbits => ?_⟩
  · exact decodeWord_lacksShanda P w hlacks (hop.imp BitVec.eq_of_toNat_eq BitVec.eq_of_toNat_eq)
  · obtain ⟨i, hi, -, -, hdec⟩ := decodeWord_assignedOpcode P w hop
    rw [← hi, ← i.wellFormed_eq_false_iff P] at hpresent
    rw [hdec, if_neg hpresent, if_pos hbits]
  · obtain ⟨i, hi, hctx, hdir, hdec⟩ := decodeWord_assignedOpcode P w hop
    rw [← hi, ← i.wellFormed_eq_false_iff P] at hpresent
    exact ⟨i, by rw [hdec, if_neg hpresent, if_neg (not_not_intro hbits)], hi, hctx, hdir⟩

end Sys2Proof.Machine
end

section
/-! SUPPORT. What every command answers, changes and leaves unchanged, on every implementation. -/

namespace Sys2Proof.Machine

/-! ## What a command can answer (R65, R220) -/

/-- The two answers of a command: it reads an uninitialised byte, or it ends. -/
def CommandAnswer (o : Host.Outcome State Fault Refusal) : Prop :=
  o = .fault .uninit ∨ ∃ t, o = .next t

theorem commandAnswer_next (t : State) : CommandAnswer (.next t) := Or.inr ⟨t, rfl⟩

theorem commandAnswer_checked {check : Code} {s : State} {rest : Unit → Host.Outcome State Fault Refusal}
    (h : ∀ u, CommandAnswer (rest u)) : CommandAnswer (checked check s rest) := by
  by_cases hc : check = .ok
  · rw [hc, checked_ok]
    exact h ()
  · rw [checked_failed check s rest hc]
    exact commandAnswer_next _

theorem commandAnswer_withBytes {s : State} {off n : Nat} {rest : List Byte → Host.Outcome State Fault Refusal}
    (h : ∀ bs, CommandAnswer (rest bs)) : CommandAnswer (withBytes s off n rest) := by
  cases hr : s.mem.readBytes off n with
  | none => exact Or.inl (withBytes_none s off n rest hr)
  | some bs =>
    rw [withBytes_some s off n rest bs hr]
    exact h bs

theorem execWith_answer (P : Params) (i : Instr) (s : State) : CommandAnswer (execWith P i s) := by
  cases i with
  | nop | ctxInit c | setVector c => exact commandAnswer_next _
  | ivShuffle c | hdrBuild c d =>
    simp only [execWith, execIvShuffle, execHdrBuild]
    exact commandAnswer_checked fun _ => commandAnswer_next _
  | pktLen | xform c | encrypt c d | shandaEnc | shandaDec =>
    simp only [execWith, execPktLen, execXform, execEncrypt, execShandaEnc, execShandaDec]
    exact commandAnswer_checked fun _ => commandAnswer_withBytes fun _ => commandAnswer_next _
  | decrypt c | hsStrip =>
    simp only [execWith, execDecrypt, execHsStrip]
    exact commandAnswer_checked fun _ => commandAnswer_withBytes fun _ =>
      commandAnswer_checked fun _ => commandAnswer_withBytes fun _ => commandAnswer_next _

theorem complete_answer (P : Params) (s : State) : CommandAnswer (complete P (execWith P) s) := by
  rcases hd : decodeWord P s.cmd with e | i
  · cases e with
    | illegalOp => rw [complete_of_illegalOp P _ s hd]; exact commandAnswer_next _
    | reservedBits => rw [complete_of_reservedBits P _ s hd]; exact commandAnswer_next _
  · rw [complete_of_ok P _ s i hd]
    exact execWith_answer P i s

/-! ## The frame of a command (R220, R223) -/

/-- A command that ends changes nothing but its completion's registers, the contexts and `BUF`. -/
theorem execWith_frame (P : Params) (i : Instr) (s t : State) (h : execWith P i s = .next t) :
    t = { s with
      code := t.code, result := t.result, busy := false, done := true, annValid := t.annValid
      announce := t.announce, ctx0 := t.ctx0, ctx1 := t.ctx1, mem := t.mem } := by
  rcases execWith_next P i s t h with ⟨code, -, rfl, -⟩ | ⟨c, k, bs, r, -, -, -, rfl | ⟨-, rfl⟩⟩
  · rfl
  · cases c <;> rfl
  · rw [announceStep_eq]
    cases c <;> rfl

/-- A command that ends with an error code only ends, and would have written nothing. -/
theorem execWith_failed (P : Params) (i : Instr) (s t : State) (h : execWith P i s = .next t) (hcode : t.code ≠ .ok) :
    t = s.failed t.code ∧ destLen P s i = 0 := by
  rcases execWith_next P i s t h with ⟨code, -, rfl, hd⟩ | ⟨c, k, bs, r, -, -, -, rfl | ⟨-, rfl⟩⟩
  · exact ⟨rfl, hd⟩
  · exact absurd rfl hcode
  · exact absurd (State.announceStep_code ..) hcode

/-- What a command that ends writes: the `destLen` bytes from `DST` on, inside `BUF`. -/
theorem execWith_mem (P : Params) (i : Instr) (s t : State) (h : execWith P i s = .next t) :
    ∃ bs, t.mem = s.mem.writeBytes s.dst.toNat bs ∧ bs.length = destLen P s i ∧
      (bs ≠ [] → s.dst.toNat + bs.length ≤ P.bufBytes) := by
  rcases execWith_next P i s t h with ⟨code, -, rfl, hd⟩ | ⟨c, k, bs, r, -, hl, hin, rfl | ⟨-, rfl⟩⟩
  · exact ⟨[], rfl, hd.symm, fun hne => absurd rfl hne⟩
  · exact ⟨bs, committed_mem .., hl, hin⟩
  · exact ⟨bs, (State.announceStep_mem ..).trans (committed_mem ..), hl, hin⟩

/-- No command writes a byte outside the `destLen` bytes from `DST` on. -/
theorem execWith_read_outside (P : Params) (i : Instr) (s t : State) (h : execWith P i s = .next t) (a : Nat)
    (ha : ¬ inRange s.dst.toNat (destLen P s i) a) : t.mem.read a = s.mem.read a := by
  obtain ⟨bs, hmem, hl, -⟩ := execWith_mem P i s t h
  rw [← hl] at ha
  exact (wrote_of_writeBytes hmem).2 a ha

/-- A command that ends initialises the `destLen` bytes from `DST` on. -/
theorem execWith_read_inside (P : Params) (i : Instr) (s t : State) (h : execWith P i s = .next t) (a : Nat)
    (ha : inRange s.dst.toNat (destLen P s i) a) : (t.mem.read a).isSome = true := by
  obtain ⟨bs, hmem, hl, -⟩ := execWith_mem P i s t h
  obtain ⟨hlo, hhi⟩ := ha
  have hread := (wrote_of_writeBytes hmem).1 (a - s.dst.toNat) (by omega)
  rw [Nat.add_sub_cancel' hlo] at hread
  rw [hread, Option.isSome_some]

theorem execWith_mem_of_destLen_zero (P : Params) (i : Instr) (s t : State) (h : execWith P i s = .next t)
    (h0 : destLen P s i = 0) : t.mem = s.mem := by
  obtain ⟨bs, hmem, hl, -⟩ := execWith_mem P i s t h
  rw [hmem, List.length_eq_zero_iff.mp (hl.trans h0)]
  rfl

/-! ## The announce step (R28, R181) -/

theorem announceStep_announce (s : State) (c : CtxId) :
    (s.announceStep c).announce = s.announce ∨ (s.announceStep c).announce.toNat % announceMod = 0 := by
  unfold State.announceStep
  split
  case isTrue hc => exact Or.inr (of_decide_eq_true (Bool.and_eq_true_iff.mp hc).2)
  case isFalse => exact Or.inl rfl

/-- `ANNOUNCE` changes only by ENCRYPT, and to a value `must_announce` admits. -/
theorem execWith_announce (P : Params) (i : Instr) (s t : State) (h : execWith P i s = .next t) :
    t.announce = s.announce ∨ (∃ c d, i = .encrypt c d) ∧ t.announce.toNat % announceMod = 0 := by
  rcases execWith_next P i s t h with ⟨code, -, rfl, -⟩ | ⟨c, k, bs, r, -, -, -, rfl | ⟨⟨d, rfl⟩, rfl⟩⟩
  · exact Or.inl rfl
  · exact Or.inl (State.setCtx_announce ..)
  · rcases announceStep_announce (committed s c k bs r) c with ha | ha
    · exact Or.inl (ha.trans (State.setCtx_announce ..))
    · exact Or.inr ⟨⟨c, d, rfl⟩, ha⟩

/-! ## The bytes a command would write (R252) -/

theorem bodyDestLen_le (P : Params) (hdr : Nat) (lenOf : List Byte → Half) (s : State) :
    bodyDestLen P hdr lenOf s ≤ longestBody P hdr s := by
  unfold bodyDestLen
  split
  case h_1 bytes _ =>
    split
    case isTrue hc =>
      obtain ⟨hlen, hdst⟩ := (bodyCheck_ok ..).mp hc
      have hmax := (lenOf bytes).isLt
      unfold longestBody maxBody
      omega
    case isFalse => exact Nat.zero_le _
  case h_2 => exact Nat.le_refl _

theorem destLenIf_le (check : Code) (n : Nat) : destLenIf check n ≤ n := by
  unfold destLenIf
  split <;> omega

/-- No command writes more than `LEN` bytes behind a header. -/
theorem destLen_le (P : Params) (s : State) (i : Instr) : destLen P s i ≤ 4 + s.len.toNat := by
  have body_le (hdr : Nat) (lenOf : List Byte → Half) : bodyDestLen P hdr lenOf s ≤ s.len.toNat :=
    (bodyDestLen_le P hdr lenOf s).trans ((Nat.min_le_left ..).trans (Nat.sub_le ..))
  cases i with
  | nop | ctxInit c | setVector c | ivShuffle c | pktLen => exact Nat.zero_le _
  | hdrBuild c d => exact (destLenIf_le ..).trans (Nat.le_add_right ..)
  | encrypt c d => exact destLenIf_le ..
  | xform c | shandaEnc | shandaDec => exact (destLenIf_le ..).trans (Nat.le_add_left ..)
  | decrypt c | hsStrip => exact (destLenIf_le ..).trans ((body_le ..).trans (Nat.le_add_left ..))

end Sys2Proof.Machine
end

section
/-! SUPPORT. What every step keeps: the invariant at reset, over a command, over a host access. -/

namespace Sys2Proof.Machine

theorem Context.inv_reset (P : Params) : Context.reset.Inv P where
  unkeyed _ := ⟨rfl, rfl⟩
  noVector _ := rfl
  ekZeros j h _ := Context.reset_ek_zero j h
  shandaHardwired := nofun
  announceHardwired := nofun

theorem State.inv_reset (P : Params) : State.reset.Inv P where
  memWf := Memory.wf_nil
  memInBuf := nofun
  pendingFlags := nofun
  announceOk := nofun
  announceValue := rfl
  ctx0 := Context.inv_reset P
  ctx1 := Context.inv_reset P

theorem State.Inv.ctx {P : Params} {s : State} (h : s.Inv P) (c : CtxId) : (s.ctx c).Inv P := by
  cases c with
  | ctx0 => exact h.ctx0
  | ctx1 => exact h.ctx1

/-- R121: an expanded key is 0 outside every fourth byte. -/
theorem expandKey_zero (K : BitVec 64) (j : Nat) (h : j < 32) (hj : j % 4 ≠ 0) : (expandKey K)[j] = 0 := by
  have group := expandKey_group K (j / 4) (j % 4) (by omega) (by omega)
  simp only [Nat.div_add_mod] at group
  rw [group, if_neg hj]

/-- The context record a command leaves is one a context can have. -/
theorem ContextChange.inv {P : Params} {i : Instr} {s : State} {c : CtxId} {k : Context}
    (h : ContextChange P i s c k) (hs : (s.ctx c).Inv P) : k.Inv P := by
  rcases h with rfl | ⟨-, hhs, rfl⟩ | ⟨-, rfl⟩ | ⟨-, rfl⟩
  · exact hs
  · exact { hs with noVector := fun hn => absurd (hhs.symm.trans hn) nofun }
  · exact { hs with noVector := nofun }
  · exact { hs with unkeyed := nofun, noVector := fun _ => rfl, ekZeros := expandKey_zero _ }

/-- A write of bytes inside `BUF` keeps what the invariant says of `BUF`. -/
theorem Memory.inBuf_writeBytes {m : Memory} {B off : Nat} {bs : List Byte} (hm : ∀ cell ∈ m, cell.1 < B)
    (hin : bs ≠ [] → off + bs.length ≤ B) : ∀ cell ∈ m.writeBytes off bs, cell.1 < B := by
  intro cell hc
  rcases Memory.mem_writeBytes m off bs cell hc with hc | ⟨hlo, hhi⟩
  · exact hm cell hc
  · have := hin (by rintro rfl; exact absurd hhi (by simpa using hlo))
    omega

/-- A command that ends keeps the invariant. -/
theorem execWith_inv (P : Params) (i : Instr) (s t : State) (hs : s.Inv P) (h : execWith P i s = .next t) :
    t.Inv P := by
  obtain ⟨bs, hmem, -, hin⟩ := execWith_mem P i s t h
  have hbusy : t.busy = false := congrArg State.busy (execWith_frame P i s t h)
  have hctx (c : CtxId) : (t.ctx c).Inv P := (execWith_ctx P i s t c h).inv (hs.ctx c)
  refine ⟨?_, ?_, fun hb => absurd (hbusy.symm.trans hb) nofun, fun ha => ?_, ?_, hctx .ctx0, hctx .ctx1⟩
  · rw [hmem]
    exact Memory.wf_writeBytes _ _ _ hs.memWf
  · rw [hmem]
    exact Memory.inBuf_writeBytes hs.memInBuf hin
  · obtain ⟨c, d, -, hcode, -⟩ := execWith_annValid P i s t h ha
    exact hcode
  · rcases execWith_announce P i s t h with ha | ⟨-, ha⟩
    · rw [ha]
      exact hs.announceValue
    · exact ha

theorem Context.inv_writeCfg {P : Params} {k : Context} (h : k.Inv P) (v : Word) : (k.writeCfg P v).Inv P :=
  { h with
    shandaHardwired := fun hw => (Bool.and_eq_true_iff.mp hw).1
    announceHardwired := fun hw => (Bool.and_eq_true_iff.mp hw).1 }

theorem State.inv_setCtx {P : Params} {s : State} (h : s.Inv P) (c : CtxId) {k : Context} (hk : k.Inv P) :
    (s.setCtx c k).Inv P := by
  cases c with
  | ctx0 => exact { h with ctx0 := hk }
  | ctx1 => exact { h with ctx1 := hk }

/-- A register write but a soft reset keeps the invariant: acceptance clears the two flags a pending command lacks, and
`STATUS` only clears flags. -/
theorem State.inv_putReg {P : Params} {s : State} (h : s.Inv P) (v : Word) (r : Reg)
    (hreset : ¬ (r = .ctrl ∧ v.getLsbD 1 = true)) : (s.putReg P v r).Inv P := by
  cases r with
  | ctrl =>
    rw [State.putReg, State.writeCtrl_keep P s v (by simpa using hreset)]
    exact { h with }
  | status =>
    refine { h with pendingFlags := fun hb => ?_ }
    obtain ⟨hdone, hann⟩ := h.pendingFlags hb
    exact ⟨by simp [State.putReg, hdone], hann⟩
  | cmd => exact { h with pendingFlags := fun _ => ⟨rfl, rfl⟩, announceOk := nofun }
  | ctxCfg c => exact State.inv_setCtx h c (Context.inv_writeCfg (h.ctx c) v)
  | _ => exact { h with }

theorem softReset_inv {P : Params} {s : State} (h : s.Inv P) : (softReset P s).Inv P :=
  { State.inv_reset P with
    memWf := Memory.wf_forget _ _ _ h.memWf
    memInBuf := fun cell hc => h.memInBuf cell (Memory.mem_forget _ _ _ cell hc) }

/-- R5, R63: the size of `BUF` is a multiple of 4, so an admitted access that begins in `BUF` ends in it. -/
theorem bufAccess_fits {P : Params} (hP : P.valid) {w : Width} {k : Nat} (hok : bufAccessOk w k = true)
    (hk : k < P.bufBytes) : k + widthBytes w ≤ P.bufBytes := by
  obtain ⟨e, he, -, hB⟩ := hP
  have hdvd : 2 ^ 2 ∣ P.bufBytes := hB ▸ Nat.pow_dvd_pow 2 (by omega)
  cases w with
  | w8 => exact hk
  | w16 | w32 =>
    have := of_decide_eq_true hok
    simp only [widthBytes]
    omega
  | w64 => cases hok

theorem State.inv_store {P : Params} {s : State} (h : s.Inv P) {off : Nat} {bs : List Byte}
    (hin : off + bs.length ≤ P.bufBytes) : (s.store off bs).Inv P :=
  { h with
    memWf := Memory.wf_writeBytes _ _ _ h.memWf
    memInBuf := Memory.inBuf_writeBytes h.memInBuf fun _ => hin }

/-- Every form of a step keeps the invariant, on every implementation R5 allows. -/
theorem StepForm.keeps_inv {P : Params} (hP : P.valid) {s t : State} (h : StepForm P s t) (hs : s.Inv P) : t.Inv P := by
  have taken (rest : List Event) : State.Inv P { s with inputs := rest } := { hs with }
  cases h with
  | idle rest | ignored rest => exact taken rest
  | rejected => exact { hs with pendingFlags := nofun, announceOk := nofun }
  | completes rest i _ _ hrun => exact execWith_inv P i _ t (taken rest) hrun
  | answered | dropped => exact { hs with }
  | stored rest w off v _ hlo hhi hok =>
    have hfits := bufAccess_fits hP hok (by omega)
    refine State.inv_store (taken rest) (Nat.le_trans (Nat.add_le_add_left ?_ _) hfits)
    exact List.length_take_le ..
  | put rest r v _ _ hreset => exact State.inv_putReg (taken rest) v r hreset
  | softReset rest => exact softReset_inv (taken rest)
  | powerOn => exact { State.inv_reset P with }

theorem params_valid_default : Config.params.valid := ⟨17, by decide, by decide, rfl⟩

/-- Settles O8, by the forms of a step. -/
theorem stepKeepsInvariant : Obligations.StepKeepsInvariant :=
  ⟨fun s t hs h => (stepForm_of_step s t h).keeps_inv params_valid_default hs,
    fun P hP s t hs h => (stepForm_of_stepOn P s t h).keeps_inv hP hs⟩

/-- Settles O7: the flags are clear, the contexts reset, and `BUF` empty. -/
theorem resetMeetsInvariant : Obligations.ResetMeetsInvariant :=
  State.inv_reset

end Sys2Proof.Machine
end

section
/-! SUPPORT. The engine's turn, the context a command names, the regions of the window, reads of uninitialised bytes,
and the abort range. -/

namespace Sys2Proof.Machine

/-! ## The engine's turn (R52, R220) -/

/-- A pending word that is no command ends as one that fails does, and any other as its command does. -/
theorem complete_frame (P : Params) (s t : State) (h : complete P (execWith P) s = .next t) :
    t = { s with
      code := t.code, result := t.result, busy := false, done := true, annValid := t.annValid
      announce := t.announce, ctx0 := t.ctx0, ctx1 := t.ctx1, mem := t.mem } := by
  rcases hd : decodeWord P s.cmd with e | i
  · cases e with
    | illegalOp =>
      rw [complete_of_illegalOp P _ s hd] at h
      cases h
      rfl
    | reservedBits =>
      rw [complete_of_reservedBits P _ s hd] at h
      cases h
      rfl
  · exact execWith_frame P i s t ((complete_of_ok P _ s i hd).symm.trans h)

/-- At the engine's turn with a command pending the machine's step is the completion of that command. -/
theorem step_pending (s : State) (rest : List Event) (hb : s.busy = true) (turn : s.engineTurn rest) :
    step s = complete Config.params exec { s with inputs := rest } :=
  stepOn_pending Config.params exec s rest hb turn

theorem exec_eq : exec = execWith Config.params :=
  funext fun i => funext fun s => exec_eq_execWith i s

theorem decodeWord_of_decodeTableWord (nbits w : Nat) (i : Instr) (h : decodeTableWord nbits w = some i) :
    decodeWord Config.params (BitVec.ofNat 32 (w % 2 ^ nbits)) = .ok i := by
  unfold decodeTableWord at h
  split at h
  case h_1 j hj => rw [hj, Option.some.inj h]
  case h_2 => cases h

/-! ## The context a command names (R44) -/

/-- A context record that changes is that of the context the command names. -/
theorem ContextChange.named {P : Params} {i : Instr} {s : State} {c : CtxId} {k : Context}
    (h : ContextChange P i s c k) (hk : k ≠ s.ctx c) :
    i = .ctxInit c ∨ i = .setVector c ∨ i = .ivShuffle c ∨ i = .xform c ∨ (∃ d, i = .encrypt c d) ∨ i = .decrypt c := by
  rcases h with h | ⟨h, -, -⟩ | ⟨h, -⟩ | ⟨h, -⟩
  · exact absurd h hk
  · exact Or.inr (Or.inr h)
  · exact Or.inr (Or.inl h)
  · exact Or.inl h

/-- No command touches a context's configuration (R41). -/
theorem ContextChange.config {P : Params} {i : Instr} {s : State} {c : CtxId} {k : Context}
    (h : ContextChange P i s c k) : k.shandaEn = (s.ctx c).shandaEn ∧ k.announceEn = (s.ctx c).announceEn := by
  rcases h with rfl | ⟨-, -, rfl⟩ | ⟨-, rfl⟩ | ⟨-, rfl⟩ <;> exact ⟨rfl, rfl⟩

/-! ## The regions of the window (R60 to R63) -/

theorem hostAccess_inRegFile (P : Params) (a : Access) (s : State) (h : accessOffset a < 0x100) :
    hostAccess P a s = if regAccessOk (accessWidth a) (accessOffset a) then regAccess P a s else .fault .bus :=
  if_pos h

theorem hostAccess_inHole (P : Params) (a : Access) (s : State) (hlo : 0x100 ≤ accessOffset a)
    (hhi : accessOffset a < P.bufBytes) : hostAccess P a s = .fault .bus :=
  (if_neg (Nat.not_lt.mpr hlo)).trans (if_pos hhi)

theorem hostAccess_inBuf (P : Params) (a : Access) (s : State) (hP : 0x100 ≤ P.bufBytes)
    (hlo : P.bufBytes ≤ accessOffset a) (hhi : accessOffset a < 2 * P.bufBytes) :
    hostAccess P a s =
      if bufAccessOk (accessWidth a) (accessOffset a - P.bufBytes) then
        if s.busy then .fault .hazard else bufAccess P a s
      else .fault .bus :=
  (if_neg (Nat.not_lt.mpr (hP.trans hlo))).trans ((if_neg (Nat.not_lt.mpr hlo)).trans (if_pos hhi))

theorem regFile_below_buf_default : 0x100 ≤ Config.params.bufBytes := by decide

/-! ## What is refused: nothing -/

theorem CommandAnswer.not_refused {o : Host.Outcome State Fault Refusal} (h : CommandAnswer o) (r : Refusal) :
    o ≠ .refused r := by
  rcases h with rfl | ⟨t, rfl⟩ <;> nofun

theorem regAccess_answer (P : Params) (a : Access) (s : State) : CommandAnswer (regAccess P a s) := by
  cases a <;> exact commandAnswer_next _

theorem bufAccess_answer (P : Params) (a : Access) (s : State) : CommandAnswer (bufAccess P a s) := by
  cases a with
  | read w off => exact commandAnswer_withBytes fun _ => commandAnswer_next _
  | write w off v => exact commandAnswer_next _

theorem hostAccess_not_refused (P : Params) (a : Access) (s : State) (r : Refusal) :
    hostAccess P a s ≠ .refused r := by
  unfold hostAccess
  split_ifs
  · exact (regAccess_answer P a s).not_refused r
  · nofun
  · nofun
  · nofun
  · exact (bufAccess_answer P a s).not_refused r
  · nofun
  · nofun

theorem engineStep_not_refused (P : Params) (s : State) (r : Refusal) :
    engineStep P (execWith P) s ≠ .refused r := by
  unfold engineStep
  split_ifs
  · exact (complete_answer P s).not_refused r
  · exact nofun

theorem stepOn_not_refused (P : Params) (s : State) (r : Refusal) : stepOn P (execWith P) s ≠ .refused r := by
  unfold stepOn
  split
  · exact engineStep_not_refused P _ r
  · exact engineStep_not_refused P _ r
  · exact hostAccess_not_refused P _ _ r
  · exact nofun

/-! ## Uninitialised bytes (R65) -/

theorem readBytes_of_uninitIn {s : State} {off n : Nat} (h : s.uninitIn off n) : s.mem.readBytes off n = none := by
  obtain ⟨j, hj, hnone⟩ := h
  cases hr : s.mem.readBytes off n with
  | none => rfl
  | some bs =>
    obtain ⟨rfl, hread⟩ := (Memory.readBytes_eq_some ..).mp hr
    exact absurd (hnone.symm.trans (hread j hj)) nofun

/-- A command past its checks stops where it reads an uninitialised byte. -/
theorem checked_uninit {check : Code} {s : State} {off n : Nat} {rest : List Byte → Host.Outcome State Fault Refusal}
    (hc : check = .ok) (h : s.uninitIn off n) :
    checked check s (fun _ => withBytes s off n rest) = .fault .uninit := by
  rw [hc, checked_ok]
  exact withBytes_none s off n rest (readBytes_of_uninitIn h)

/-! ## The abort range (R252) -/

theorem Memory.initialises.readBytes {m m' : Memory} (h : m'.initialises m) {off n : Nat} {bs : List Byte}
    (hr : m.readBytes off n = some bs) : m'.readBytes off n = some bs := by
  obtain ⟨hl, hread⟩ := (Memory.readBytes_eq_some ..).mp hr
  exact (Memory.readBytes_eq_some ..).mpr ⟨hl, fun j hj => h _ _ (hread j hj)⟩

theorem destLenIf_mono (check : Code) {n n' : Nat} (h : n ≤ n') : destLenIf check n ≤ destLenIf check n' := by
  unfold destLenIf
  split
  · exact h
  · exact Nat.le_refl _

/-- A header that is initialised gives the same body length whatever else is initialised, and one that is not is taken
to give the longest. -/
theorem bodyDestLen_initialises (P : Params) (hdr : Nat) (lenOf : List Byte → Half) (s : State) (m : Memory)
    (h : m.initialises s.mem) : bodyDestLen P hdr lenOf { s with mem := m } ≤ bodyDestLen P hdr lenOf s := by
  cases hr : s.mem.readBytes s.srcOff hdr with
  | none =>
    have longest : bodyDestLen P hdr lenOf s = longestBody P hdr s := by rw [bodyDestLen, hr]
    rw [longest]
    exact bodyDestLen_le P hdr lenOf { s with mem := m }
  | some bytes =>
    have hr' : Memory.readBytes m s.srcOff hdr = some bytes := h.readBytes hr
    refine Nat.le_of_eq ?_
    unfold bodyDestLen State.srcOff at *
    simp only [hr, hr']
    rfl

/-- Which events are still to come has no part in what a command would write. -/
theorem destLen_inputs (P : Params) (s : State) (rest : List Event) (i : Instr) :
    destLen P { s with inputs := rest } i = destLen P s i := by
  cases i with
  | hdrBuild c d | xform c | encrypt c d | decrypt c => cases c <;> rfl
  | _ => rfl

theorem pendingDestLen_inputs (P : Params) (s : State) (rest : List Event) :
    pendingDestLen P { s with inputs := rest } = pendingDestLen P s := by
  simp only [pendingDestLen, destLen_inputs]

theorem pendingDestLen_idle (P : Params) (s : State) (hb : s.busy = false) : pendingDestLen P s = 0 :=
  if_neg (by simp [hb])

theorem pendingDestLen_command (P : Params) (s : State) (i : Instr) (hb : s.busy = true)
    (hd : decodeWord P s.cmd = .ok i) : pendingDestLen P s = destLen P s i := by
  rw [pendingDestLen, if_pos hb, hd]

theorem pendingDestLen_noCommand (P : Params) (s : State) (e : DecodeError) (hb : s.busy = true)
    (hd : decodeWord P s.cmd = .error e) : pendingDestLen P s = 0 := by
  rw [pendingDestLen, if_pos hb, hd]

/-! ## Registers at reset (R53) -/

theorem State.reset_readReg (r : Reg) : State.reset.readReg r = if r = .id then 0x49560001 else 0 := by
  cases r with
  | ctxStatus c | ctxCfg c | ctxVersion c | ctxVector c => cases c <;> rfl
  | _ => rfl

theorem regOffset_eq_zero_iff (r : Reg) : regOffset r = 0 ↔ r = .id := by
  cases r with
  | ctxStatus c | ctxCfg c | ctxVersion c | ctxVector c => cases c <;> decide
  | _ => decide

theorem readRegAt_regOffset (s : State) (r : Reg) : s.readRegAt (regOffset r) = s.readReg r := by
  rw [State.readRegAt, regAt_regOffset]

end Sys2Proof.Machine
end

section
/-! The statements of 60_exceptions.md and 70_reset_and_hazards.md. -/

namespace Sys2Proof.Machine

/-! ## The step -/

/-- Settles O5: the step is the completion of `CMD`, which runs the command it decodes to. -/
theorem stepRunsDecodedCommand : Obligations.StepRunsDecodedCommand := by
  have runs (s : State) (i : Instr) (rest : List Event) (hb : s.busy = true) (turn : s.engineTurn rest)
      (hd : decodeWord Config.params s.cmd = .ok i) : step s = exec i { s with inputs := rest } :=
    (step_pending s rest hb turn).trans (complete_of_ok Config.params exec { s with inputs := rest } i hd)
  exact ⟨runs, fun s nbits w i h => runs (s.withFetchWord nbits w) i [] rfl (Or.inl ⟨rfl, rfl⟩)
    (decodeWord_of_decodeTableWord nbits w i h)⟩

/-- Settles O9: an engine step answers as a command does, and a host access with a next state or a fault. -/
theorem stepNeverRefuses : Obligations.StepNeverRefuses :=
  fun s r => step_eq_stepOn s ▸ stepOn_not_refused Config.params s r

/-- Settles O10: the step is the completion of `CMD`, which is `F_UNINIT` or a next state in the frame of a command. -/
theorem pendingCommandCompletes : Obligations.PendingCommandCompletes := by
  intro s rest hb turn
  rw [step_pending s rest hb turn, exec_eq]
  refine (complete_answer Config.params { s with inputs := rest }).imp_right fun ⟨t, ht⟩ => ⟨t, ht, ?_⟩
  have kept {α : Type} (f : State → α) := congrArg f (complete_frame Config.params { s with inputs := rest } t ht)
  exact ⟨kept State.busy, kept State.done, kept State.irqEn, (kept State.irq).trans (Bool.and_true _),
    kept State.inputs⟩

/-- Settles O11: it is the engine's turn, and the engine is idle. -/
theorem idleBlockWaits : Obligations.IdleBlockWaits := by
  intro s hb hi
  rw [step, stepOn, hi]
  exact if_neg (by simp [hb])

/-! ## Completion -/

/-- Settles O56: a command that ends with an error code only ends. -/
theorem errorCompletionHasNoEffect : Obligations.ErrorCompletionHasNoEffect :=
  fun i s t h hcode => (execWith_failed Config.params i s t (exec_eq_execWith i s ▸ h) hcode).1

/-- Settles O57: the frame of every command, and the clauses for `ANNOUNCE`, the contexts and `BUF`. -/
theorem commandFrame : Obligations.CommandFrame := by
  intro i s t h
  rw [exec_eq_execWith] at h
  have kept {α : Type} (f : State → α) := congrArg f (execWith_frame Config.params i s t h)
  have hctx (c : CtxId) := execWith_ctx Config.params i s t c h
  refine ⟨kept State.cmd, kept State.src, kept State.dst, kept State.len, kept State.value, kept State.keyLo,
    kept State.keyHi, kept State.version, kept State.irqEn, kept State.wdrop, kept State.inputs, kept State.readData,
    fun hne => ⟨?_, ?_⟩, fun c => (hctx c).named, fun c => (hctx c).config, fun hi => ?_, fun a ha => ?_⟩
  · exact (execWith_announce Config.params i s t h).resolve_right fun ⟨he, _⟩ => hne he
  · refine Bool.eq_false_iff.mpr fun ha => hne ?_
    obtain ⟨c, d, hi, -⟩ := execWith_annValid Config.params i s t h ha
    exact ⟨c, d, hi⟩
  · refine execWith_mem_of_destLen_zero Config.params i s t h ?_
    rcases hi with rfl | ⟨c, rfl⟩ | ⟨c, rfl⟩ | ⟨c, rfl⟩ | rfl <;> rfl
  · refine execWith_read_outside Config.params i s t h a fun ⟨hlo, hhi⟩ => ha ⟨hlo, ?_⟩
    exact hhi.trans_le (Nat.add_le_add_left (destLen_le ..) _)

/-- Settles O58: past its checks each command stops at its first read that covers an uninitialised byte. -/
theorem uninitialisedSourceFaults : Obligations.UninitialisedSourceFaults := by
  intro s
  simp only [exec_pktLen, exec_shandaEnc, exec_shandaDec, exec_xform, exec_encrypt, exec_decrypt, exec_hsStrip,
    Nat.add_assoc s.dst.toNat]
  refine ⟨fun hsrc h => ?_, fun hsrc hdst h => ?_, fun c d hr hn hsrc hdst h => ?_, fun c hr hn hsrc => ?_,
    fun hn hsrc => ?_⟩
  · exact checked_uninit ((pktLenCheck_ok _ s).mpr hsrc) h
  · have pass (f : List Byte → List Byte) : execShandaPass f s = .fault .uninit :=
      checked_uninit ((shandaCheck_ok _ s).mpr ⟨hsrc, hdst⟩) h
    exact ⟨pass _, pass _, fun c hr =>
      checked_uninit ((xformCheck_ok _ c s).mpr ⟨(readyXf_iff s c).mpr hr, hsrc, hdst⟩) h⟩
  · exact checked_uninit ((encryptCheck_ok _ c s).mpr ⟨(readyXf_iff s c).mpr hr, hn, hsrc, hdst⟩) h
  · have hpass : decryptCheck Config.params c s = .ok :=
      (decryptCheck_ok _ c s).mpr ⟨(readyXf_iff s c).mpr hr, hn, hsrc⟩
    refine ⟨fun h => checked_uninit hpass h, fun b0 b1 b2 b3 hhdr hm hdst h => ?_⟩
    have enter : execDecrypt c s = _ := checked_withBytes (bs := [b0, b1, b2, b3]) hpass rfl hhdr
    rw [enter]
    exact checked_uninit ((bodyCheck_ok ..).mpr ⟨hm, hdst⟩) h
  · have hpass : hsStripCheck Config.params s = .ok := (hsStripCheck_ok _ s).mpr ⟨hn, hsrc⟩
    refine ⟨fun h => checked_uninit hpass h, fun b0 b1 hpre hm hdst h => ?_⟩
    have enter : execHsStrip s = _ := checked_withBytes (bs := [b0, b1]) hpass rfl hpre
    rw [enter]
    exact checked_uninit ((bodyCheck_ok ..).mpr ⟨hm, hdst⟩) h

/-! ## Resets -/

/-- Settles O12: the step is the model's `powerOnReset`, and at reset every register reads 0 but `ID`. -/
theorem powerOnResetState : Obligations.PowerOnReset := by
  refine ⟨fun s rest hi => ?_, fun off _ => ?_, rfl, rfl, rfl, rfl, fun c => ?_, fun a => rfl⟩
  · rw [step, stepOn, hi]
    rfl
  · cases h : regAt off with
    | none =>
      have hne : off ≠ 0 := by
        rintro rfl
        cases h
      rw [State.readRegAt, h, if_neg hne]
    | some r =>
      obtain rfl := regOffset_of_regAt off r h
      rw [readRegAt_regOffset, State.reset_readReg]
      simp only [regOffset_eq_zero_iff]
  · have hk : State.reset.ctx c = Context.reset := by cases c <;> rfl
    rw [hk]
    exact ⟨rfl, rfl, rfl, rfl, rfl, rfl, Context.reset_ek_zero⟩

/-- Settles O13: the step is the model's `softReset`, which takes from `BUF` the bytes of the pending command. -/
theorem softResetState : Obligations.SoftReset := by
  intro s v rest hf hv
  have hstep := step_putReg s .ctrl v rest (Or.inr rfl) hf
  rw [State.putReg, State.writeCtrl_reset _ _ _ hv] at hstep
  refine ⟨_, hstep, rfl, ?_⟩
  simp only [softReset_mem, pendingDestLen_inputs]
  refine ⟨fun a ha => ?_, fun a ha => ?_, fun hb => ?_⟩
  · exact (Memory.read_forget ..).trans (if_neg ha)
  · exact (Memory.read_forget ..).trans (if_pos ha)
  · rw [pendingDestLen_idle _ s hb, Memory.forget_zero]

/-- Settles O14: the range is that of the decoded command, and the command writes exactly its range. -/
theorem abortRangeIsWrittenRange : Obligations.AbortRangeIsWrittenRange := by
  refine ⟨pendingDestLen_command _, pendingDestLen_noCommand _, pendingDestLen_idle _, fun i s t h => ?_⟩
  rw [exec_eq_execWith] at h
  refine ⟨fun _ a => ⟨execWith_read_inside _ i s t h a, execWith_read_outside _ i s t h a⟩, fun hcode => ?_⟩
  obtain ⟨-, h0⟩ := execWith_failed _ i s t h hcode
  exact ⟨h0, execWith_mem_of_destLen_zero _ i s t h h0⟩

/-- Settles O60: only DECRYPT and HS_STRIP look at `BUF`, at their header. -/
theorem abortRangeCoversEveryInitialisation : Obligations.AbortRangeCoversEveryInitialisation := by
  intro i s m h
  cases i with
  | nop | ctxInit c | setVector c | ivShuffle c | pktLen | shandaEnc | shandaDec => exact Nat.le_refl _
  | hdrBuild c d | xform c | encrypt c d => cases c <;> exact Nat.le_refl _
  | decrypt c => cases c <;> exact destLenIf_mono _ (bodyDestLen_initialises _ _ _ s m h)
  | hsStrip => exact destLenIf_mono _ (bodyDestLen_initialises _ _ _ s m h)

end Sys2Proof.Machine
end

section
/-! SUPPORT. Registers as they read, writes that store or do nothing, narrow words, and blocks that differ in keys. -/

namespace Sys2Proof.Machine

/-! ## A host access as a step, on every implementation -/

theorem stepOn_facing (P : Params) (run : Instr → State → Host.Outcome State Fault Refusal) (s : State) (a : Access)
    (rest : List Event) (h : s.facing a rest) : stepOn P run s = hostAccess P a { s with inputs := rest } := by
  rw [stepOn, show s.inputs = .bus a :: rest from h]

/-- At a host access it is not the engine's turn. -/
theorem State.facing.not_engineTurn {s : State} {a : Access} {rest rest' : List Event} (h : s.facing a rest) :
    ¬ s.engineTurn rest' := by
  rintro (⟨hi, -⟩ | hi) <;> exact absurd (h.symm.trans hi) nofun

/-! ## What registers read (R22 to R43) -/

/-- No register stands at a reserved offset (R22). -/
theorem regOffset_unreserved (r : Reg) :
    regOffset r < 0x034 ∨ (0x040 ≤ regOffset r ∧ regOffset r < 0x050) ∨
      (0x060 ≤ regOffset r ∧ regOffset r < 0x070) := by
  cases r with
  | ctxStatus c | ctxCfg c | ctxVersion c | ctxVector c => cases c <;> decide
  | _ => decide

/-- A reserved offset reads 0 (R22). -/
theorem State.readRegAt_reserved (s : State) (off : Nat)
    (h : ¬ (off < 0x034 ∨ (0x040 ≤ off ∧ off < 0x050) ∨ (0x060 ≤ off ∧ off < 0x070))) : s.readRegAt off = 0 := by
  cases hr : regAt off with
  | none => rw [State.readRegAt, hr]
  | some r => exact absurd (regOffset_of_regAt off r hr ▸ regOffset_unreserved r) h

/-- A register of two flags (R40, R41). -/
theorem twoFlags_toNat (a b : Bool) :
    ((0 : BitVec 30) ++ (BitVec.ofBool b ++ BitVec.ofBool a) : Word).toNat = a.toNat + 2 * b.toNat := by
  cases a <;> cases b <;> rfl

theorem toNat_half_setWidth (v : Half) : (v.setWidth 32).toNat = v.toNat :=
  BitVec.toNat_setWidth_of_le (by decide)

/-- R37: a 16-bit value in the low half of a word, and 0 above it. -/
theorem half_setWidth_halves (v : Half) :
    (v.setWidth 32).extractLsb' 0 16 = v ∧ (v.setWidth 32).extractLsb' 16 16 = 0 := by
  constructor <;> refine BitVec.eq_of_getLsbD_eq fun j hj => ?_
  · simp [hj, show j < 32 by omega]
  · simp

/-- R25: the flag bits of `STATUS`. -/
theorem State.statusWord_flags (s : State) :
    s.statusWord.getLsbD 0 = s.busy ∧ s.statusWord.getLsbD 1 = s.done ∧ s.statusWord.getLsbD 2 = s.annValid ∧
      s.statusWord.getLsbD 3 = s.wdrop := by
  simp only [State.statusWord, BitVec.getLsbD_append, BitVec.getLsbD_ofBool]
  simp

/-- R25: `CODE` and the reserved bits of `STATUS`. -/
theorem State.statusWord_fields (s : State) :
    s.statusWord.extractLsb' 4 4 = 0 ∧ s.statusWord.extractLsb' 8 8 = s.code.toByte ∧
      s.statusWord.extractLsb' 16 16 = 0 := by
  simp (disch := decide) only [State.statusWord, BitVec.extractLsb'_append_eq_of_le,
    BitVec.extractLsb'_append_eq_of_add_le]
  exact ⟨BitVec.extractLsb'_eq_self, BitVec.extractLsb'_eq_self, BitVec.extractLsb'_eq_self⟩

/-! ## Writes that do nothing (R22) -/

/-- A register at an offset the list of writable registers does not have ignores writes, busy or not. -/
theorem State.writeReg_readOnly (P : Params) (s : State) (r : Reg) (v : Word)
    (h : regOffset r ∉ [0x004, 0x008, 0x00C, 0x010, 0x014, 0x018, 0x01C, 0x028, 0x02C, 0x030, 0x044, 0x064]) :
    s.writeReg P r v = s := by
  have ignored (hfree : heldWhileBusy r = false) (hput : s.putReg P v r = s) : s.writeReg P r v = s := by
    rw [State.writeReg, hfree, Bool.and_false, hput]
    rfl
  cases r with
  | id | result | announce | ctxStatus c | ctxVersion c | ctxVector c => exact ignored rfl rfl
  | ctxCfg c => cases c <;> exact absurd (by decide) h
  | _ => exact absurd (by decide) h

theorem State.writeRegAt_ignored (P : Params) (s : State) (off : Nat) (v : Word)
    (h : off ∉ [0x004, 0x008, 0x00C, 0x010, 0x014, 0x018, 0x01C, 0x028, 0x02C, 0x030, 0x044, 0x064]) :
    s.writeRegAt P off v = s := by
  cases hr : regAt off with
  | none => rw [State.writeRegAt, hr]
  | some r =>
    obtain rfl := regOffset_of_regAt off r hr
    rw [State.writeRegAt, hr]
    exact State.writeReg_readOnly P s r v h

/-! ## The bytes of a narrow access (R63, R66) -/

/-- The accesses R63 admits. -/
theorem bufAccessOk_iff (w : Width) (k : Nat) :
    bufAccessOk w k = true ↔ w = .w8 ∨ (w = .w16 ∧ k % 2 = 0) ∨ (w = .w32 ∧ k % 4 = 0) := by
  cases w <;> simp [bufAccessOk]

theorem widthBytes_of_bufAccessOk {w : Width} {k : Nat} (h : bufAccessOk w k = true) :
    widthBytes w = if w = .w8 then 1 else if w = .w16 then 2 else 4 := by
  cases w with
  | w8 | w16 | w32 => rfl
  | w64 => cases h

theorem bytes32_le32 (bs : List Byte) : bytes32 (le32 bs 0) = [byteAt bs 0, byteAt bs 1, byteAt bs 2, byteAt bs 3] := by
  obtain ⟨h0, h1, h2, h3⟩ := byteOf_wordOf (byteAt bs 0) (byteAt bs 1) (byteAt bs 2) (byteAt bs 3)
  rw [bytes32, le32, h0, h1, h2, h3]

/-- The word a narrow read answers holds the bytes, and above them 0 (log 9). -/
theorem bytes32_le32_append (bs : List Byte) (h : bs.length ≤ 4) :
    bytes32 (le32 bs 0) = bs ++ List.replicate (4 - bs.length) 0 := by
  rw [bytes32_le32]
  match bs, h with
  | [], _ | [_], _ | [_, _], _ | [_, _, _], _ | [_, _, _, _], _ => rfl

/-- An admitted `BUF` access of an idle block, as a step. -/
theorem step_bufAccess (s : State) (a : Access) (rest : List Event) (k : Nat) (hb : s.busy = false)
    (hk : k < Config.params.bufBytes) (hoff : accessOffset a = Config.params.bufBytes + k)
    (hok : bufAccessOk (accessWidth a) k = true) (hf : s.facing a rest) :
    step s = bufAccess Config.params a { s with inputs := rest } := by
  rw [step_facing s a rest hf, hostAccess_inBuf _ _ _ regFile_below_buf_default (by omega) (by omega), hoff,
    Nat.add_sub_cancel_left, if_pos hok]
  exact if_neg (by simp [hb])

/-- A `BUF` access that is not admitted, as a step. -/
theorem step_bufAccess_rejected (s : State) (a : Access) (rest : List Event) (k : Nat)
    (hk : k < Config.params.bufBytes) (hoff : accessOffset a = Config.params.bufBytes + k)
    (hok : ¬ bufAccessOk (accessWidth a) k = true) (hf : s.facing a rest) : step s = .fault .bus := by
  rw [step_facing s a rest hf, hostAccess_inBuf _ _ _ regFile_below_buf_default (by omega) (by omega), hoff,
    Nat.add_sub_cancel_left, if_neg hok]

/-! ## What a host access leaves a pending command (R258, R260) -/

/-- A host access but a reset changes nothing a pending command reads or is. -/
theorem StepForm.keeps_command {P : Params} {s t : State} (h : StepForm P s t) (hb : s.busy = true) {a : Access}
    {rest : List Event} (hf : s.facing a rest) (hreset : ¬ s.resetsNext) :
    t = { s with
      irqEn := t.irqEn, done := t.done, annValid := t.annValid, wdrop := t.wdrop, inputs := t.inputs
      readData := t.readData } := by
  cases h with
  | idle _ turn | rejected _ _ turn => exact absurd turn hf.not_engineTurn
  | completes _ _ _ hi =>
    obtain ⟨-, ⟨rest', turn⟩, -⟩ := hi
    exact absurd turn hf.not_engineTurn
  | answered | ignored | dropped => rfl
  | stored _ _ _ _ _ _ _ _ hidle => exact absurd (hidle.symm.trans hb) nofun
  | softReset _ hr | powerOn _ hr => exact absurd hr hreset
  | put rest' r v _ hfree hsrst =>
    have hheld : heldWhileBusy r = false := hfree.resolve_left (by simp [hb])
    cases r with
    | ctrl =>
      rw [State.putReg, State.writeCtrl_keep _ _ v (by simpa using hsrst)]
    | id | status | result | announce | ctxStatus c | ctxVersion c | ctxVector c => rfl
    | _ => cases hheld

/-! ## Blocks that differ only in keys (R49, R50) -/

/-- The same block with other keys, staged and expanded. -/
def State.rekey (s : State) (lo hi : Word) (ek0 ek1 : ExpandedKey) : State :=
  { s with keyLo := lo, keyHi := hi, ctx0 := { s.ctx0 with ek := ek0 }, ctx1 := { s.ctx1 with ek := ek1 } }

theorem State.sameButKeys_refl (s : State) : s.sameButKeys s :=
  ⟨s.keyLo, s.keyHi, s.ctx0.ek, s.ctx1.ek, rfl⟩

theorem State.sameButKeys_rekey (s : State) (lo hi : Word) (ek0 ek1 : ExpandedKey) :
    s.sameButKeys (s.rekey lo hi ek0 ek1) :=
  ⟨lo, hi, ek0, ek1, rfl⟩

theorem State.readReg_rekey (s : State) (lo hi : Word) (ek0 ek1 : ExpandedKey) (r : Reg) :
    (s.rekey lo hi ek0 ek1).readReg r = s.readReg r := by
  cases r with
  | ctxStatus c | ctxCfg c | ctxVersion c | ctxVector c => cases c <;> rfl
  | _ => rfl

theorem State.readRegAt_rekey (s : State) (lo hi : Word) (ek0 ek1 : ExpandedKey) (off : Nat) :
    (s.rekey lo hi ek0 ek1).readRegAt off = s.readRegAt off := by
  simp only [State.readRegAt, State.readReg_rekey]

theorem destLen_rekey (P : Params) (s : State) (lo hi : Word) (ek0 ek1 : ExpandedKey) (i : Instr) :
    destLen P (s.rekey lo hi ek0 ek1) i = destLen P s i := by
  cases i with
  | hdrBuild c d | xform c | encrypt c d | decrypt c => cases c <;> rfl
  | _ => rfl

theorem softReset_rekey (P : Params) (s : State) (lo hi : Word) (ek0 ek1 : ExpandedKey) :
    softReset P (s.rekey lo hi ek0 ek1) = softReset P s := by
  simp only [softReset, pendingDestLen, destLen_rekey]
  rfl

/-- A register write keeps two blocks alike but for keys: a staged key is written in both, and a soft reset makes them
equal. -/
theorem State.putReg_rekey (P : Params) (s : State) (lo hi : Word) (ek0 ek1 : ExpandedKey) (v : Word) (r : Reg) :
    (s.putReg P v r).sameButKeys ((s.rekey lo hi ek0 ek1).putReg P v r) := by
  cases r with
  | ctrl =>
    simp only [State.putReg, State.writeCtrl, softReset_rekey]
    split
    · exact State.sameButKeys_refl _
    · exact State.sameButKeys_rekey ..
  | keyLo => exact ⟨v, hi, ek0, ek1, rfl⟩
  | keyHi => exact ⟨lo, v, ek0, ek1, rfl⟩
  | ctxCfg c => cases c <;> exact State.sameButKeys_rekey ..
  | _ => exact State.sameButKeys_rekey ..

theorem State.writeRegAt_rekey (P : Params) (s : State) (lo hi : Word) (ek0 ek1 : ExpandedKey) (off : Nat) (v : Word) :
    (s.writeRegAt P off v).sameButKeys ((s.rekey lo hi ek0 ek1).writeRegAt P off v) := by
  cases hr : regAt off with
  | none =>
    simp only [State.writeRegAt, hr]
    exact State.sameButKeys_rekey ..
  | some r =>
    simp only [State.writeRegAt, hr, State.writeReg]
    rw [show (s.rekey lo hi ek0 ek1).busy = s.busy from rfl]
    split
    · exact State.sameButKeys_rekey ..
    · exact State.putReg_rekey ..

/-- Two answers that show the host the same, from blocks that differ only in keys. -/
def SameAnswer (o o' : Host.Outcome State Fault Refusal) : Prop :=
  (∃ f, o = .fault f ∧ o' = .fault f) ∨ ∃ s t, o = .next s ∧ o' = .next t ∧ s.sameButKeys t

theorem sameAnswer_fault (f : Fault) : SameAnswer (.fault f) (.fault f) := Or.inl ⟨f, rfl, rfl⟩

theorem sameAnswer_next {s t : State} (h : s.sameButKeys t) : SameAnswer (.next s) (.next t) :=
  Or.inr ⟨s, t, rfl, rfl, h⟩

theorem regAccess_rekey (P : Params) (a : Access) (s : State) (lo hi : Word) (ek0 ek1 : ExpandedKey) :
    SameAnswer (regAccess P a s) (regAccess P a (s.rekey lo hi ek0 ek1)) := by
  cases a with
  | read w off =>
    simp only [regAccess, State.readRegAt_rekey]
    exact sameAnswer_next (State.sameButKeys_rekey ..)
  | write w off v => exact sameAnswer_next (State.writeRegAt_rekey ..)

theorem bufAccess_rekey (P : Params) (a : Access) (s : State) (lo hi : Word) (ek0 ek1 : ExpandedKey) :
    SameAnswer (bufAccess P a s) (bufAccess P a (s.rekey lo hi ek0 ek1)) := by
  cases a with
  | read w off =>
    simp only [bufAccess, withBytes, show (s.rekey lo hi ek0 ek1).mem = s.mem from rfl]
    cases s.mem.readBytes (off - P.bufBytes) (widthBytes w) with
    | none => exact sameAnswer_fault _
    | some bs => exact sameAnswer_next (State.sameButKeys_rekey ..)
  | write w off v => exact sameAnswer_next (State.sameButKeys_rekey ..)

/-- A host access answers two blocks that differ only in keys alike. -/
theorem hostAccess_rekey (P : Params) (a : Access) (s : State) (lo hi : Word) (ek0 ek1 : ExpandedKey) :
    SameAnswer (hostAccess P a s) (hostAccess P a (s.rekey lo hi ek0 ek1)) := by
  simp only [hostAccess, show (s.rekey lo hi ek0 ek1).busy = s.busy from rfl]
  split_ifs
  · exact regAccess_rekey ..
  · exact sameAnswer_fault _
  · exact sameAnswer_fault _
  · exact sameAnswer_fault _
  · exact bufAccess_rekey ..
  · exact sameAnswer_fault _
  · exact sameAnswer_fault _

end Sys2Proof.Machine
end

section
/-! The statements of 10_state.md and 20_memory.md on single registers, the bus and `BUF`. -/

namespace Sys2Proof.Machine

/-! ## Reads -/

/-- Settles O15: an admitted read only answers, and three registers computed. -/
theorem registerReadsHaveNoEffect : Obligations.RegisterReadsHaveNoEffect := by
  refine ⟨fun s off rest hlt h4 hf => ?_, fun s => ⟨rfl, rfl, half_setWidth_halves s.announce⟩⟩
  rw [step_facing s _ rest hf, hostAccess_readReg _ _ _ hlt h4]
  rfl

/-- Settles O22: the registers of the context by its index, and the reserved ranges. -/
theorem contextRegistersRead : Obligations.ContextRegistersRead := by
  refine fun s c => ⟨?_, ?_, ?_, ?_, fun off hlo hhi => ?_, fun off hlo hhi => ?_, fun off hlo => ?_⟩
  · cases c <;> exact twoFlags_toNat ..
  · cases c <;> exact twoFlags_toNat ..
  · cases c <;> exact toNat_half_setWidth _
  · cases c <;> rfl
  · exact s.readRegAt_reserved off (by omega)
  · exact s.readRegAt_reserved off (by omega)
  · exact s.readRegAt_reserved off (by omega)

/-! ## Writes -/

/-- Settles O17: the word's fields, and the write of the W1C bits. -/
theorem statusRegister : Obligations.StatusRegister := by
  refine ⟨⟨rfl, rfl, rfl, rfl, rfl, rfl, rfl⟩, fun s => ?_⟩
  obtain ⟨hbusy, hdone, hann, hwdrop⟩ := s.statusWord_flags
  obtain ⟨hlow, hcode, hhigh⟩ := s.statusWord_fields
  exact ⟨hbusy, hdone, hann, hwdrop, hlow, hcode, hhigh, rfl,
    fun v rest hf => step_putReg s .status v rest (Or.inr rfl) hf⟩

/-- Settles O18: `CMD` is held while busy. -/
theorem commandAcceptance : Obligations.CommandAcceptance :=
  fun s w rest hf => ⟨rfl, fun hb => step_putReg s .cmd w rest (Or.inl hb) hf,
    fun hb => step_dropReg s .cmd w rest hb rfl hf⟩

/-- Settles O20: each of the seven registers is put while idle. -/
theorem operandRegisters : Obligations.OperandRegisters := by
  intro s v rest hb
  have put (r : Reg) := step_putReg s r v rest (Or.inl hb)
  exact ⟨put .src, put .dst, put .len, put .value, put .keyLo, put .keyHi, put .version, rfl, rfl, rfl, rfl, rfl, rfl,
    toNat_half_setWidth s.version⟩

/-- Settles O21: the offset is reserved, or of a register whose write does nothing. -/
theorem readOnlyAndReservedIgnoreWrites : Obligations.ReadOnlyAndReservedIgnoreWrites := by
  intro s off v rest hlt h4 hoff hf
  rw [step_facing s _ rest hf, hostAccess_writeReg _ _ _ _ hlt h4, State.writeRegAt_ignored _ _ _ _ hoff]

/-- Settles O23: the write replaces the context's record by one with the configuration as `writeCfg` takes it. -/
theorem configRegister : Obligations.ConfigRegister := by
  intro P s c v rest hb hf
  have hoff : (if c = .ctx0 then 0x044 else 0x064) = regOffset (.ctxCfg c) := by cases c <;> rfl
  rw [hoff] at hf
  obtain ⟨hlt, h4⟩ := regOffset_admitted (.ctxCfg c)
  refine ⟨State.putReg P { s with inputs := rest } v (.ctxCfg c), ?_, ?_, fun c' hc => ?_, ?_⟩
  · rw [stepOn_facing P _ s _ rest hf, hostAccess_writeReg _ _ _ _ hlt h4,
      State.writeRegAt_put P { s with inputs := rest } _ v (Or.inl hb)]
  · cases c <;> rfl
  · exact (State.setCtx_ctx_other _ _ _ _ hc).trans (State.ctx_inputs ..)
  · refine (State.setCtx_ctx_same ..).trans ?_
    rw [State.ctx_inputs, Context.writeCfg, Bool.and_comm, Bool.and_comm P.hasAnnounce]

/-! ## The bus -/

/-- Settles O24, by the region of the window the access is in. -/
theorem badRegisterAccessIsBusError : Obligations.BadRegisterAccessIsBusError := by
  intro s a rest hf h
  rw [step_facing s a rest hf]
  rcases h with ⟨hlt, hbad⟩ | ⟨hlo, hhi⟩
  · rw [hostAccess_inRegFile _ _ _ hlt, if_neg]
    rw [regAccessOk, Bool.and_eq_true, decide_eq_true_iff, decide_eq_true_iff]
    tauto
  · exact hostAccess_inHole _ _ _ hlo hhi

/-- Settles O26: in `BUF` an admitted access of a busy block is the hazard. -/
theorem bufWhileBusyIsHazard : Obligations.BufWhileBusyIsHazard := by
  intro s a rest hb hf hlo hhi hok
  rw [step_facing s a rest hf, hostAccess_inBuf _ _ _ regFile_below_buf_default hlo hhi, if_pos hok]
  exact if_pos hb

/-- Settles O25: an admitted access is `bufAccess`, which stores or reads the bytes of its width. -/
theorem bufAccessEffect : Obligations.BufAccess := by
  intro s w k v rest hb hk
  simp only [← bufAccessOk_iff]
  have hoff : Config.params.bufBytes + k - Config.params.bufBytes = k := Nat.add_sub_cancel_left ..
  refine ⟨fun hf hok => ?_, fun hf hok bs hl hbs => ?_, fun hf hok hun => ?_, fun hok hf => ?_⟩
  · rw [← widthBytes_of_bufAccessOk hok]
    refine ⟨_, step_bufAccess s (.write w _ v) rest k hb hk rfl hok hf, rfl, wrote_of_writeBytes ?_⟩
    rw [State.store_mem, hoff]
  · rw [← widthBytes_of_bufAccessOk hok] at hl ⊢
    have hread : s.mem.readBytes k (widthBytes w) = some bs := (Memory.readBytes_eq_some ..).mpr ⟨hl, hbs⟩
    have h4 : bs.length ≤ 4 := by
      rw [hl, widthBytes_of_bufAccessOk hok]
      split_ifs <;> decide
    refine ⟨le32 bs 0, ?_, ?_, ?_⟩
    · rw [step_bufAccess s (.read w _) rest k hb hk rfl hok hf, bufAccess, hoff]
      exact withBytes_some _ _ _ _ bs hread
    · rw [bytes32_le32_append bs h4, ← hl, List.take_left]
    · rw [bytes32_le32_append bs h4, ← hl, List.drop_left]
  · rw [← widthBytes_of_bufAccessOk hok] at hun
    rw [step_bufAccess s (.read w _) rest k hb hk rfl hok hf, bufAccess, hoff]
    exact withBytes_none _ _ _ _ (readBytes_of_uninitIn hun)
  · rcases hf with hf | hf
    · exact step_bufAccess_rejected s (.write w _ v) rest k hk rfl hok hf
    · exact step_bufAccess_rejected s (.read w _) rest k hk rfl hok hf

/-- Settles O27: every form of a step at a host access but a reset keeps what a pending command reads. -/
theorem operandsHeldWhilePending : Obligations.OperandsHeldWhilePending := by
  intro s t a rest hb hf hreset h
  have kept {α : Type} (f : State → α) := congrArg f ((stepForm_of_step s t h).keeps_command hb hf hreset)
  exact ⟨(kept State.busy).trans hb, kept State.cmd, kept State.src, kept State.dst, kept State.len, kept State.value,
    kept State.keyLo, kept State.keyHi, kept State.version, kept State.ctx0, kept State.ctx1, kept State.mem,
    kept State.result, kept State.announce, kept State.code⟩

/-- Settles O28: the answers are alike, and blocks that differ only in keys have the same read data and `irq`. -/
theorem keysAreUnreadable : Obligations.KeysAreUnreadable := by
  rintro s _ a rest ⟨lo, hi, ek0, ek1, rfl⟩ hf
  have hs : step s = _ := step_facing s a rest hf
  have ht : step (s.rekey lo hi ek0 ek1) = _ := step_facing (s.rekey lo hi ek0 ek1) a rest hf
  rcases hostAccess_rekey Config.params a { s with inputs := rest } lo hi ek0 ek1 with
    ⟨f, hsf, htf⟩ | ⟨s', t', hs', ht', hkeys⟩
  · exact Or.inl ⟨f, hs.trans hsf, ht.trans htf⟩
  · refine Or.inr ⟨s', t', hs.trans hs', ht.trans ht', hkeys, ?_⟩
    obtain ⟨_, _, _, _, rfl⟩ := hkeys
    exact ⟨rfl, rfl⟩

end Sys2Proof.Machine
end

section
/-! SUPPORT. HDR_BUILD up to its checks, commands run one after the other, and the shuffle on the identity table. -/

namespace Sys2Proof.Machine

/-! ## IV_SHUFFLE (R142) -/

theorem exec_ivShuffle (c : CtxId) (s : State) : exec (.ivShuffle c) s = execIvShuffle c s := rfl

theorem ivShuffleCheck_notReady {c : CtxId} {s : State} (h : (s.ctx c).handshaken = false) :
    ivShuffleCheck c s = .notReady := by
  simp [ivShuffleCheck, firstFailure_cons, readyIv, h]

/-- Past its check IV_SHUFFLE commits the shuffled vector. -/
theorem execIvShuffle_ok {c : CtxId} {s : State} (h : (s.ctx c).handshaken = true) :
    execIvShuffle c s = .next (committed s c { s.ctx c with vector := shuffle Config.params (s.ctx c).vector } []
      (shuffle Config.params (s.ctx c).vector)) := by
  rw [execIvShuffle, (ivShuffleCheck_ok c s).mpr h, checked_ok]
  rfl

/-! ## HDR_BUILD (R166) -/

theorem exec_hdrBuild (c : CtxId) (d : Dir) (s : State) : exec (.hdrBuild c d) s = execHdrBuild c d s := rfl

theorem hdrBuildCheck_notReady {P : Params} {c : CtxId} {s : State} (h : (s.ctx c).handshaken = false) :
    hdrBuildCheck P c s = .notReady := by
  simp [hdrBuildCheck, firstFailure_cons, readyIv, h]

theorem hdrBuildCheck_lenRange {P : Params} {c : CtxId} {s : State} (hr : (s.ctx c).handshaken = true)
    (h : maxBody < s.lenNat) : hdrBuildCheck P c s = .lenRange := by
  simp [hdrBuildCheck, firstFailure_cons, readyIv, hr, h]

theorem hdrBuildCheck_range {P : Params} {c : CtxId} {s : State} (hr : (s.ctx c).handshaken = true)
    (hn : s.lenNat ≤ maxBody) (h : P.bufBytes < s.dstOff + hdrBytes) : hdrBuildCheck P c s = .range := by
  simp [hdrBuildCheck, firstFailure_cons, readyIv, inBuf, hr, hn, h]

/-- The header as a word: h1 above h0 (R166). -/
theorem headerWord_header (ver : Half) (v : Word) (L : Half) (d : Dir) :
    headerWord (header ver v L d) = (wireH0 ver v d ^^^ L) ++ wireH0 ver v d := by
  simp only [header, headerBase_eq]
  rfl

/-- Past its checks HDR_BUILD stores the header of its context and of `LEN`. -/
theorem execHdrBuild_ok {c : CtxId} (d : Dir) {s : State} (h : hdrBuildCheck Config.params c s = .ok) :
    execHdrBuild c d s = .next ((s.store s.dstOff
      (wireHeader (s.ctx c).version (s.ctx c).vector (loHalf s.len) d)).finish .ok
        ((wireH0 (s.ctx c).version (s.ctx c).vector d ^^^ loHalf s.len) ++
          wireH0 (s.ctx c).version (s.ctx c).vector d)) := by
  rw [execHdrBuild, h, checked_ok, ← headerBytes_header, ← headerWord_header]
  rfl

/-! ## Commands in a row -/

theorem runInstrs_append {xs ys : List Instr} {s t : State} (h : runInstrs xs s = .next t) :
    runInstrs (xs ++ ys) s = runInstrs ys t := by
  induction xs generalizing s with
  | nil =>
    cases h
    rfl
  | cons i xs ih =>
    rw [runInstrs] at h
    rw [List.cons_append, runInstrs]
    cases he : exec i s with
    | next u =>
      rw [he] at h
      exact ih h
    | fault f =>
      rw [he] at h
      cases h
    | refused r =>
      rw [he] at h
      cases h

/-- n shuffles of a context with a vector all complete, and leave its n-fold shuffle and the other context. -/
theorem runInstrs_shuffles (n : Nat) (c : CtxId) (s : State) (h : (s.ctx c).handshaken = true) :
    ∃ t, runInstrs (List.replicate n (.ivShuffle c)) s = .next t ∧ s.otherCtxKept t c ∧
      t.ctx c = { s.ctx c with vector := (shuffle Config.params)^[n] (s.ctx c).vector } := by
  induction n generalizing s with
  | zero => exact ⟨s, rfl, fun _ _ => rfl, rfl⟩
  | succ n ih =>
    have hfirst := execIvShuffle_ok h
    have hctx := committed_ctx_same s c { s.ctx c with vector := shuffle Config.params (s.ctx c).vector } []
      (shuffle Config.params (s.ctx c).vector)
    obtain ⟨t, hrun, hother, ht⟩ := ih _ (by rw [hctx]; exact h)
    refine ⟨t, ?_, fun c' hc => ?_, ?_⟩
    · rw [List.replicate_succ, runInstrs, exec_ivShuffle, hfirst]
      exact hrun
    · exact (hother c' hc).trans (otherCtxKept_committed s c _ _ _ c' hc)
    · rw [ht, hctx, Function.iterate_succ_apply]

/-! ## The identity table (95_test_vectors.md) -/

/-- An implementation with the identity table and seed 0, for either reading of key byte 0. -/
def identityTable (k : KeyByte0) : Params where
  bt _ W := W
  table b := b
  seed := 0
  k3k0 := k
  hasShanda := true
  hasAnnounce := true
  bufBytes := 4096

/-- The shuffle depends on the table, the seed and `P_K3_K0` alone. -/
theorem shuffle_eq_identityTable (P : Params) (ht : ∀ b, P.table b = b) (hs : P.seed = 0) (v : Word) :
    shuffle P v = shuffle (identityTable P.k3k0) v := by
  have hstep : shuffleStep P = shuffleStep (identityTable P.k3k0) :=
    funext₂ fun K b => by simp only [shuffleStep, identityTable, ht]
  rw [shuffle, shuffle, hstep, hs, identityTable]

end Sys2Proof.Machine
end

section
/-! The remaining statements of 41_iv_engine.md, 42_cipher_wrapper.md and 95_test_vectors.md. -/

namespace Sys2Proof.Machine

/-- Settles O36: the check, and the commit of the shuffled vector. -/
theorem ivShuffleCompletes : Obligations.IvShuffleCompletes := by
  refine fun c => ⟨encodedBy_fields (.ivShuffle c), fun s => ?_⟩
  rw [exec_ivShuffle]
  exact ⟨fun h => checked_ends (ivShuffleCheck_notReady h), fun h => ⟨_, execIvShuffle_ok h, okFrame_committed ..,
    State.setCtx_mem .., otherCtxKept_committed s c _ [] _, committed_ctx_same ..⟩⟩

/-- Settles O41: the shuffles of context 0 leave context 1, and those of context 1 leave context 0. -/
theorem lockstepShuffles : Obligations.LockstepShuffles := by
  intro n s h0 h1 heq
  obtain ⟨t, hrun, hother, ht⟩ := runInstrs_shuffles n .ctx0 s h0
  have ht1 : t.ctx1 = s.ctx1 := hother .ctx1 nofun
  obtain ⟨u, hrun', hother', hu⟩ := runInstrs_shuffles n .ctx1 t (by rw [State.ctx_ctx1, ht1]; exact h1)
  have hu0 : u.ctx0.vector = (shuffle Config.params)^[n] s.ctx0.vector :=
    congrArg Context.vector ((hother' .ctx0 nofun).trans ht)
  have hu1 : u.ctx1.vector = (shuffle Config.params)^[n] t.ctx1.vector := congrArg Context.vector hu
  exact ⟨u, (runInstrs_append hrun).trans hrun', by rw [hu0, hu1, ht1, heq], hu0⟩

/-- Settles O43: the checks in order, and the store of the header. -/
theorem hdrBuildCompletes : Obligations.HdrBuildCompletes := by
  refine fun c d => ⟨encodedBy_fields (.hdrBuild c d), fun s => ?_⟩
  simp only [exec_hdrBuild]
  exact ⟨fun h => checked_ends (hdrBuildCheck_notReady h), fun hr h => checked_ends (hdrBuildCheck_lenRange hr h),
    fun hr hn h => checked_ends (hdrBuildCheck_range hr hn h), fun hr hn hdst =>
      ⟨_, execHdrBuild_ok d ((hdrBuildCheck_ok _ c s).mpr ⟨hr, hn, hdst⟩), rfl, rfl, rfl, wrote_of_writeBytes rfl⟩⟩

/-- Settles O38: the values on the identity table, computed for each reading of key byte 0. -/
theorem shuffleTestVectors : Obligations.ShuffleTestVectors := by
  intro P ht hs
  simp only [shuffle_eq_identityTable P ht hs]
  refine ⟨?_, fun hk => ?_, fun hk => ?_⟩
  · cases P.k3k0 <;> decide
  · rw [hk]
    decide
  · rw [hk]
    decide

/-- Settles O54, by computing the passes on the listed bytes. -/
theorem shandaTestVectors : Obligations.ShandaTestVectors :=
  ⟨rfl, rfl, rfl, rfl, rfl, rfl, rfl⟩

end Sys2Proof.Machine
end
